-- ==== Sys2Proof/Word.lean ====
section
/-! DEFINITION. The bit-vector types of the machine and its fixed sizes (spec/00_scope.md R6, R8). -/

namespace Sys2Proof

/-- Half a word; bytes occur only in the program image (spec/20_memory.md R65). -/
abbrev Byte := BitVec 8

/-- "Word: unsigned integer, 0–65535 inclusive": a memory cell, a register, an instruction (R6, R8). -/
abbrev Word := BitVec 16

/-- A memory address, the operand field, and the instruction address register: 12 bits (R6). -/
abbrev Addr := BitVec 12

/-- The opcode field: 4 bits (R6). -/
abbrev OpcodeBits := BitVec 4

/-- `MEM_WORDS` (R6). -/
abbrev memWords : Nat := 4096

/-- `INQ_CAP` (R6). -/
abbrev inqCap : Nat := 4096

/-- `TRACE_CAP` (R6). -/
abbrev traceCap : Nat := 4096

/-- `SYSTEM_DEVICE_ID` (R6). -/
abbrev systemDeviceId : Word := 1

end Sys2Proof
end

