-- ==== Sys2Proof/Syntax.lean ====
section
/-! DEFINITION. The sixteen instructions (spec/30_encoding.md R92), one constructor per row of spec/opcode_table.json. -/

namespace Sys2Proof

/-- An instruction with its 12-bit operand `n`. `SSD` keeps the operand it ignores, because the word holds it (R97). -/
inductive Instr where
  /-- Immediate into `A` (R170). -/
  | lda (n : Addr)
  /-- Memory word into `A` (R171). -/
  | laa (n : Addr)
  /-- Add an immediate (R180). -/
  | add (n : Addr)
  /-- Subtract an immediate (R181). -/
  | sbd (n : Addr)
  /-- Add a memory word (R182). -/
  | ada (n : Addr)
  /-- Subtract a memory word (R183). -/
  | sba (n : Addr)
  /-- Store `C` (R200). -/
  | str (n : Addr)
  /-- AND with complement, then store (R201). -/
  | std (n : Addr)
  /-- Rotate `A` right by `B mod 16` (R202). -/
  | ssd (n : Addr)
  /-- Jump always (R220). -/
  | jmp (n : Addr)
  /-- Jump if `zero` (R221). -/
  | jiz (n : Addr)
  /-- Jump if `carry` (R222). -/
  | jie (n : Addr)
  /-- Jump if `inputAvailable` (R223). -/
  | jii (n : Addr)
  /-- Bit-test jump (R224). -/
  | jbt (n : Addr)
  /-- Get input (R253). -/
  | gin (n : Addr)
  /-- Send output (R254). -/
  | sot (n : Addr)
  deriving DecidableEq, Repr

end Sys2Proof
end

