-- ==== Sys2Proof/Decode.lean ====
section
/-! DEFINITION. Decoding and encoding (spec/30_encoding.md R90, R91, R92; the byte order of an image is spec/20_memory.md R65). -/

namespace Sys2Proof

/-- `w[15:12]`, that is `w >> 12` (R91). -/
def opcodeOf (w : Word) : OpcodeBits := w.extractLsb' 12 4

/-- `w[11:0]`, that is `w & 0xFFF` (R91). -/
def operandOf (w : Word) : Addr := w.extractLsb' 0 12

/-- Decoding is total: all sixteen opcodes are assigned (R91, R92, R95). The last arm is opcode 15, the one value left. -/
def decodeWord (w : Word) : Instr :=
  match opcodeOf w with
  | 0#4  => .lda (operandOf w)
  | 1#4  => .laa (operandOf w)
  | 2#4  => .add (operandOf w)
  | 3#4  => .sbd (operandOf w)
  | 4#4  => .ada (operandOf w)
  | 5#4  => .sba (operandOf w)
  | 6#4  => .str (operandOf w)
  | 7#4  => .std (operandOf w)
  | 8#4  => .ssd (operandOf w)
  | 9#4  => .jmp (operandOf w)
  | 10#4 => .jiz (operandOf w)
  | 11#4 => .jie (operandOf w)
  | 12#4 => .jii (operandOf w)
  | 13#4 => .jbt (operandOf w)
  | 14#4 => .gin (operandOf w)
  | _    => .sot (operandOf w)

/-- Why a sequence of bytes holds no instruction: it is too short for a word. No word is rejected (R95). -/
inductive DecodeError where
  /-- There is no byte at all. -/
  | noByte
  /-- There is one byte without its partner. -/
  | loneByte
  deriving DecidableEq, Repr

/-- A word from its image bytes, "high byte first" (R65). -/
def wordOfBytes (hi lo : Byte) : Word := hi ++ lo

/-- The high byte of a word. -/
def highByte (w : Word) : Byte := w.extractLsb' 8 8

/-- The low byte of a word. -/
def lowByte (w : Word) : Byte := w.extractLsb' 0 8

/-- The instruction at the head of a byte sequence in the image's order, and the bytes after it. -/
def decodeBytes : List Byte → Except DecodeError (Instr × List Byte)
  | []              => .error .noByte
  | [_]             => .error .loneByte
  | hi :: lo :: rest => .ok (decodeWord (wordOfBytes hi lo), rest)

/-- The opcode field of an instruction's word (R92). -/
def Instr.opcode : Instr → OpcodeBits
  | .lda _ => 0
  | .laa _ => 1
  | .add _ => 2
  | .sbd _ => 3
  | .ada _ => 4
  | .sba _ => 5
  | .str _ => 6
  | .std _ => 7
  | .ssd _ => 8
  | .jmp _ => 9
  | .jiz _ => 10
  | .jie _ => 11
  | .jii _ => 12
  | .jbt _ => 13
  | .gin _ => 14
  | .sot _ => 15

/-- The operand field of an instruction's word (R92). -/
def Instr.operand : Instr → Addr
  | .lda n | .laa n | .add n | .sbd n | .ada n | .sba n | .str n | .std n
  | .ssd n | .jmp n | .jiz n | .jie n | .jii n | .jbt n | .gin n | .sot n => n

/-- "The word `w` of an instruction with opcode `p` and operand `n` is `w = p * 4096 + n`" (R90): `p ++ n`. -/
def encodeWord (i : Instr) : Word := i.opcode ++ i.operand

/-- An instruction's two image bytes, high byte first (R65). -/
def encodeBytes (i : Instr) : List Byte := [highByte (encodeWord i), lowByte (encodeWord i)]

/-- The instruction the decoder reads from an instruction whose bits, numbered as spec/opcode_table.json numbers them,
are `w`: its word is laid out in the image's byte order and decoded. More than the one word an instruction has is refused. -/
def decodeTableWord (nbits w : Nat) : Option Instr :=
  if nbits ≤ 16 then
    match decodeBytes [highByte (BitVec.ofNat 16 (w % 2 ^ nbits)), lowByte (BitVec.ofNat 16 (w % 2 ^ nbits))] with
    | .ok (i, []) => some i
    | _           => none
  else none

end Sys2Proof
end

