-- ==== Sys2Proof/Machine/Sparse.lean ====
section
/-! DEFINITION. A fixed array held as a list of (index, value) pairs in one canonical form: indexes strictly rising, and no
entry equal to what an unlisted index holds. Memory, the queue's slots and the log's slots are held so. -/

namespace Sys2Proof.Machine

/-- The value at index `i`; an unlisted index holds `d`. -/
def Sparse.get {α : Type} (d : α) : List (Nat × α) → Nat → α
  | [], _ => d
  | (k, v) :: m, i => if k = i then v else Sparse.get d m i

/-- The array without its entry at `i`. -/
def Sparse.erase {α : Type} (m : List (Nat × α)) (i : Nat) : List (Nat × α) :=
  m.filter (fun e => e.1 != i)

/-- The array with the entry `(i, v)` added before the first larger index. -/
def Sparse.insert {α : Type} : List (Nat × α) → Nat → α → List (Nat × α)
  | [], i, v => [(i, v)]
  | (k, w) :: m, i, v => if i < k then (i, v) :: (k, w) :: m else (k, w) :: Sparse.insert m i v

/-- The array with `v` at index `i`; writing what an unlisted index holds removes the entry. -/
def Sparse.put {α : Type} [DecidableEq α] (d : α) (m : List (Nat × α)) (i : Nat) (v : α) : List (Nat × α) :=
  if v = d then Sparse.erase m i else Sparse.insert (Sparse.erase m i) i v

/-- The canonical form, for an array of `size` places. -/
abbrev Sparse.wf {α : Type} (d : α) (size : Nat) (m : List (Nat × α)) : Prop :=
  m.Pairwise (fun x y => x.1 < y.1) ∧ ∀ e ∈ m, e.1 < size ∧ e.2 ≠ d

end Sys2Proof.Machine
end

