-- ==== Sys2Proof/Config.lean ====
section
/-! DEFINITION. The open parameters of spec/00_scope.md R7 that are plain data, their defaults, and the free values the
spec leaves open. `TRACE_FIELDS`, a function of two states, is the opaque `Config.traceFields` of Machine/Trace.lean. -/

namespace Sys2Proof

/-- The ALU mode, "one of `Add`, `Subtract`, `Other`" (spec/10_state.md R34). -/
inductive AluMode where
  | add
  | subtract
  | other
  deriving DecidableEq, Repr

/-- `JBT_READING`: the two readings of the condition of `JBT` (spec/45_jumps.md R224, decision D5). -/
inductive JbtReading where
  /-- Every bit set in `B` is also set in `A`. -/
  | allBitsOfB
  /-- `A` is odd; `B` is not read. -/
  | lowBitOfA
  deriving DecidableEq, Repr

/-- `INPUT_AVAILABLE_WIRING`: what `JII` reads (spec/10_state.md R31, decision D6). -/
inductive InputAvailableWiring where
  /-- The stored flag, which no operation drives. -/
  | neverDriven
  /-- The combinational value `inq.count > 0`. -/
  | queueNonEmpty
  deriving DecidableEq, Repr

/-- The open parameters of R7 that are data. DESIGN CHOICE (log 1), safe: they stand in State, unchanged by every step,
so that a claim about every state is a claim about every setting of them. -/
structure Config where
  aluModeReset         : AluMode
  jbtReading           : JbtReading
  inputAvailableWiring : InputAvailableWiring
  clockSpeedReset      : Word
  keyboardId           : Word
  mouseId              : Word
  deriving DecidableEq, Repr

/-- Two device ids as R7 allows them: "each different from 1 and from each other". The two default values only show
that such ids exist; the ids themselves are the opaque `Config.freeDeviceIds`. -/
structure DeviceIds where
  keyboard : Word := 2
  mouse    : Word := 3
  legal    : keyboard ≠ systemDeviceId ∧ mouse ≠ systemDeviceId ∧ keyboard ≠ mouse := by decide
  deriving DecidableEq, Repr, Inhabited

/-- `CLOCK_SPEED_RESET`, OPEN in the spec (decision D10): a free value. DESIGN CHOICE (log 5), safe. -/
opaque Config.freeClockSpeed : Word

/-- `KEYBOARD_ID` and `MOUSE_ID`, OPEN in the spec (decision D9): free values. DESIGN CHOICE (log 6), safe. -/
opaque Config.freeDeviceIds : DeviceIds

/-- The defaults of R7, and a free value where R7 gives none. DESIGN CHOICE (logs 2, 3, 4, 5, 6). -/
def Config.default : Config where
  aluModeReset         := .other
  jbtReading           := .allBitsOfB
  inputAvailableWiring := .neverDriven
  clockSpeedReset      := Config.freeClockSpeed
  keyboardId           := Config.freeDeviceIds.keyboard
  mouseId              := Config.freeDeviceIds.mouse

end Sys2Proof
end

