-- ==== Sys2Proof/Machine/State.lean ====
section
/-! DEFINITION. The state of the machine (spec/10_state.md section 1), the reasons a run can stop, and the state after
reset (spec/70_reset_and_hazards.md R350). Plain data throughout. -/

namespace Sys2Proof.Machine

/-- "Input Queue Entry: (deviceId: Word, data: Word) pair" (spec/46_io.md R250). -/
structure QueueEntry where
  deviceId : Word
  data     : Word
  deriving DecidableEq, Repr

/-- The input queue's state (R250). `slot` lists the slots that do not hold `(0, 0)`, by rising index. -/
structure InputQueue where
  slot   : List (Nat × QueueEntry)
  /-- Index of the slot that holds the most recently pushed pair not yet popped. -/
  cursor : BitVec 12
  /-- Pushes not yet matched by a pop; "a natural number" with no upper bound (spec/10_state.md R40). -/
  count  : Nat
  deriving DecidableEq, Repr

/-- The system device's state (spec/10_state.md R36 to R39). -/
structure SystemDevice where
  pending           : Bool
  command           : Word
  clockSpeed        : Word
  shutdownRequested : Bool
  deriving DecidableEq, Repr

/-- One entry of the trace log (spec/40_step_cycle.md R137). -/
structure TraceEntry where
  iar    : Addr
  opcode : OpcodeBits
  field2 : Word
  field3 : Word
  deriving DecidableEq, Repr

/-- The trace log's state (R136). `slot` lists the slots that do not hold `(0, 0, 0, 0)`, by rising index. -/
structure TraceLog where
  slot     : List (Nat × TraceEntry)
  /-- Entries ever appended (R136). -/
  count    : Nat
  overflow : Bool
  deriving DecidableEq, Repr

/-- The state of spec/10_state.md section 1, and `cfg`, the model's own copy of the open parameters (log 1). -/
structure State where
  /-- Main memory (spec/10_state.md R42, R43): word `n` is the byte at `2 * n` (high) and at `2 * n + 1` (low), and a byte that
  is not listed is 0. DESIGN CHOICE (log 10), safe: no operation can observe the order. -/
  mem            : List Host.Cell
  a              : Word
  b              : Word
  c              : Word
  /-- The instruction address register (R25). -/
  iar            : Addr
  zero           : Bool
  carry          : Bool
  inputAvailable : Bool
  aluMode        : AluMode
  inq            : InputQueue
  sys            : SystemDevice
  trace          : TraceLog
  /-- The open parameters of spec/00_scope.md R7; no step writes them. -/
  cfg            : Config
  deriving DecidableEq, Repr

/-- The machine stops with a fault: never. "`step()` is total ... It has no fault outcome" (spec/00_scope.md R12), so there is
no constructor, which is the spec's own word and neither safe nor unsafe. -/
inductive Fault
  deriving DecidableEq, Repr

/-- What is refused by name. -/
inductive Refusal where
  /-- An instruction without a meaning. No arm of `exec` raises it: all sixteen instructions have theirs. Safe. -/
  | notModelled (mnemonic : String)
  /-- A `load` anywhere but directly after reset, for which the spec gives no behaviour (spec/47_host_entry_points.md R291, R300).
  Raised by `hostLoad` of Machine/HostInterface.lean only, never by `step`. Safe (log 16). -/
  | loadOutsideBoot
  deriving DecidableEq, Repr

/-- The empty input queue of R40: cursor 0, count 0, every slot `(0, 0)`. -/
def InputQueue.reset : InputQueue where
  slot   := []
  cursor := 0
  count  := 0

/-- The idle system device (R36, R37, R39) with the clock speed `CLOCK_SPEED_RESET` (R38). -/
def SystemDevice.reset (clockSpeed : Word) : SystemDevice where
  pending           := false
  command           := 0
  clockSpeed        := clockSpeed
  shutdownRequested := false

/-- The empty trace log of R40. -/
def TraceLog.reset : TraceLog where
  slot     := []
  count    := 0
  overflow := false

/-- The machine right after reset, for given open parameters (R350). DESIGN CHOICE (logs 2, 5, 9), unsafe: only memory's zero is
the source's word, the other values are the spec's decisions. -/
def State.resetWith (cfg : Config) : State where
  mem            := []
  a              := 0
  b              := 0
  c              := 0
  iar            := 0
  zero           := false
  carry          := false
  inputAvailable := false
  aluMode        := cfg.aluModeReset
  inq            := InputQueue.reset
  sys            := SystemDevice.reset cfg.clockSpeedReset
  trace          := TraceLog.reset
  cfg            := cfg

/-- The machine right after reset, with the spec's default parameters (R7, R350). -/
def State.reset : State := State.resetWith Config.default

end Sys2Proof.Machine
end

