-- ==== Sys2Proof/Machine/Ops.lean ====
section
/-! DEFINITION. The named operations over memory and registers that the meanings are written in, and the fetch. The machine has
no exception to take and none to return from (spec/60_exceptions.md R310, R315, R316). -/

namespace Sys2Proof.Machine

/-- The byte at byte address `k`; memory is "zero-initialized" (spec/10_state.md R43). -/
def Memory.byteAt (m : List Host.Cell) (k : Nat) : Byte := Sparse.get 0 m k

/-- Memory with the byte `v` at byte address `k`. -/
def Memory.setByte (m : List Host.Cell) (k : Nat) (v : Byte) : List Host.Cell := Sparse.put 0 m k v

/-- `MemRead(addr)` (spec/20_memory.md R62). -/
def Memory.read (m : List Host.Cell) (n : Addr) : Word :=
  wordOfBytes (Memory.byteAt m (2 * n.toNat)) (Memory.byteAt m (2 * n.toNat + 1))

/-- `MemWrite(addr, v)` (R63). -/
def Memory.write (m : List Host.Cell) (n : Addr) (v : Word) : List Host.Cell :=
  Memory.setByte (Memory.setByte m (2 * n.toNat) (highByte v)) (2 * n.toNat + 1) (lowByte v)

/-- The canonical form of memory: rising byte addresses of the 4096 words, no listed zero. -/
abbrev Memory.wf (m : List Host.Cell) : Prop := Sparse.wf 0 (2 * memWords) m

/-- `MemRead(addr)` in a state. -/
def State.readWord (s : State) (n : Addr) : Word := Memory.read s.mem n

/-- `MemWrite(addr, v)` in a state. -/
def State.writeWord (s : State) (n : Addr) (v : Word) : State := { s with mem := Memory.write s.mem n v }

/-- `A <- v`. -/
def State.setA (s : State) (v : Word) : State := { s with a := v }

/-- `B <- v`. -/
def State.setB (s : State) (v : Word) : State := { s with b := v }

/-- `C <- v`. -/
def State.setC (s : State) (v : Word) : State := { s with c := v }

/-- `aluMode <- m`. -/
def State.setMode (s : State) (m : AluMode) : State := { s with aluMode := m }

/-- The input queue becomes `q`. -/
def State.setInq (s : State) (q : InputQueue) : State := { s with inq := q }

/-- The system device's state becomes `d`. -/
def State.setSys (s : State) (d : SystemDevice) : State := { s with sys := d }

/-- The trace log becomes `l`. -/
def State.setTrace (s : State) (l : TraceLog) : State := { s with trace := l }

/-- The end of an instruction that does not jump: `IAR <- (IAR + 1) mod 4096` (spec/40_step_cycle.md R134, R135). -/
def State.advance (s : State) : State := { s with iar := s.iar + 1 }

/-- A jump with condition `cond`: taken, `IAR <- n` and no increment; not taken, the increment
(spec/45_jumps.md R225, spec/40_step_cycle.md R134). -/
def State.jumpIf (s : State) (cond : Bool) (n : Addr) : State :=
  { s with iar := if cond then n else s.iar + 1 }

/-- Fetch and decode: `word <- MemRead(IAR)` (spec/40_step_cycle.md R131, R132). -/
def fetch (s : State) : Instr := decodeWord (s.readWord s.iar)

end Sys2Proof.Machine
end

