-- ==== Sys2Proof/Machine/Flags.lean ====
section
/-! DEFINITION. The ALU with its flags (spec/41_alu.md), the rotate of `SSD`, and the conditions the jumps test. -/

namespace Sys2Proof.Machine

/-- `C` after `RunALU()` (R151): the exact sum or difference, reduced into a word. -/
def aluResult (mode : AluMode) (a b c : Word) : Word :=
  match mode with
  | .add      => BitVec.ofNat 16 (a.toNat + b.toNat)
  | .subtract => BitVec.ofInt 16 ((a.toNat : Int) - (b.toNat : Int))
  | .other    => c

/-- `carry` after `RunALU()` (R151): overflow of the exact sum, borrow of the exact difference. -/
def aluCarry (mode : AluMode) (a b : Word) (carry : Bool) : Bool :=
  match mode with
  | .add      => decide (65536 ≤ a.toNat + b.toNat)
  | .subtract => decide (a.toNat < b.toNat)
  | .other    => carry

/-- `RunALU()` (R151); `zero` is `(C = 0)` for the `C` there is afterwards, in every mode. -/
def State.runAlu (s : State) : State :=
  { s with
    c     := aluResult s.aluMode s.a s.b s.c
    carry := aluCarry s.aluMode s.a s.b s.carry
    zero  := aluResult s.aluMode s.a s.b s.c == 0#16 }

/-- One turn of `SSD`'s loop, on an unbounded integer (spec/44_store_and_bitwise.md R202, the "17-bit carry trick"). -/
def rotateOnce (w : Nat) : Nat := (if w % 2 = 1 then w + 65536 else w) / 2

/-- `SSD`'s loop: `k` turns from the working value `w` (R202). -/
def rotateLoop : Nat → Nat → Nat
  | 0, w     => w
  | k + 1, w => rotateLoop k (rotateOnce w)

/-- `A` rotated right by `B mod 16` (R202). -/
def rotated (a b : Word) : Word := BitVec.ofNat 16 (rotateLoop (b.toNat % 16) a.toNat)

/-- The flag `inputAvailable` as wired: the stored flag, or `inq.count > 0` (spec/10_state.md R31, decision D6, log 4). -/
def inputAvailableNow (s : State) : Bool :=
  match s.cfg.inputAvailableWiring with
  | .neverDriven   => s.inputAvailable
  | .queueNonEmpty => decide (0 < s.inq.count)

/-- The condition of `JBT` in either reading (spec/45_jumps.md R224, decision D5, log 3). -/
def jbtCondition (reading : JbtReading) (a b : Word) : Bool :=
  match reading with
  | .allBitsOfB => a &&& b == b
  | .lowBitOfA  => a.getLsbD 0

end Sys2Proof.Machine
end

