-- ==== Sys2Proof/Machine/Operands.lean ====
section
/-! DEFINITION. The uses an instruction makes of its 12-bit operand (spec/30_encoding.md R92). A jump target is the operand
itself (`State.jumpIf`), a written address goes to `State.writeWord`, and a payload is the operand itself. -/

namespace Sys2Proof.Machine

/-- `zext_16(operand)`: an immediate, never sign-extended, scaled or shifted (R92). -/
def immediate (n : Addr) : Word := n.setWidth 16

/-- The memory word at the operand's address (direct addressing, spec/20_memory.md R61). -/
def memoryOperand (s : State) (n : Addr) : Word := s.readWord n

end Sys2Proof.Machine
end

