-- ==== Sys2Proof/Machine/Arithmetic.lean ====
section
/-! DEFINITION. `ADD`, `SBD`, `ADA` and `SBA` (spec/43_arithmetic.md). -/

namespace Sys2Proof.Machine

/-- What the four have in common: `B` is loaded, the mode is set, then the ALU runs. -/
def State.arithmetic (s : State) (mode : AluMode) (operand : Word) : State :=
  ((s.setB operand).setMode mode).runAlu.advance

/-- R180: "`B = operand`; ALU mode = add; run ALU". -/
def execAdd (n : Addr) (s : State) : Host.Outcome State Fault Refusal :=
  .next (s.arithmetic .add (immediate n))

/-- R181: "`B = operand`; ALU mode = subtract; run ALU". -/
def execSbd (n : Addr) (s : State) : Host.Outcome State Fault Refusal :=
  .next (s.arithmetic .subtract (immediate n))

/-- R182: "`B = memory[operand]`; ALU mode = add; run ALU". -/
def execAda (n : Addr) (s : State) : Host.Outcome State Fault Refusal :=
  .next (s.arithmetic .add (memoryOperand s n))

/-- R183: "`B = memory[operand]`; ALU mode = subtract; run ALU". -/
def execSba (n : Addr) (s : State) : Host.Outcome State Fault Refusal :=
  .next (s.arithmetic .subtract (memoryOperand s n))

end Sys2Proof.Machine
end

