-- ==== Sys2Proof/Machine/InputQueue.lean ====
section
/-! DEFINITION. The input queue's push and pop (spec/46_io.md section 1): a ring whose pops come in stack order. -/

namespace Sys2Proof.Machine

/-- What a slot that nothing has written holds (spec/10_state.md R40). -/
def QueueEntry.zero : QueueEntry := { deviceId := 0, data := 0 }

/-- The pair in slot `i`. -/
def InputQueue.slotAt (q : InputQueue) (i : Nat) : QueueEntry := Sparse.get QueueEntry.zero q.slot i

/-- `InqPush(dev, data)` (R251): no full condition, and the count is never clamped. -/
def InputQueue.push (q : InputQueue) (dev data : Word) : InputQueue where
  cursor := q.cursor + 1
  slot   := Sparse.put QueueEntry.zero q.slot (q.cursor + 1).toNat { deviceId := dev, data := data }
  count  := q.count + 1

/-- `InqPop()` (R252): the word it returns. -/
def InputQueue.popValue (q : InputQueue) : Word :=
  if q.count = 0 then 0 else (q.slotAt q.cursor.toNat).data

/-- `InqPop()` (R252): the queue it leaves; unchanged when empty (decision D23, log 19), and a popped slot keeps its content. -/
def InputQueue.pop (q : InputQueue) : InputQueue where
  slot   := q.slot
  cursor := if q.count = 0 then q.cursor else q.cursor - 1
  count  := q.count - 1

/-- The canonical form of the queue's storage. -/
abbrev InputQueue.wf (q : InputQueue) : Prop := Sparse.wf QueueEntry.zero inqCap q.slot

end Sys2Proof.Machine
end

