-- ==== Sys2Proof/Machine/SystemDevice.lean ====
section
/-! DEFINITION. The output handler and the system device's two-phase protocol (spec/46_io.md sections 4 and 5). -/

namespace Sys2Proof.Machine

/-- An argument arrives (R257): "for command=1, set the clock speed to this operand; clear the pending flag". -/
def systemArgument (payload : Addr) (s : State) : State :=
  s.setSys { s.sys with
    clockSpeed := if s.sys.command = 1 then immediate payload else s.sys.clockSpeed
    pending    := false }

/-- Command 0: the answer `(1, clockSpeed)` is pushed on the input queue (R256). -/
def systemQuery (s : State) : State := s.setInq (s.inq.push systemDeviceId s.sys.clockSpeed)

/-- Command 1: "set pending flag, remember command=1" (R256). -/
def systemStage (s : State) : State := s.setSys { s.sys with pending := true, command := 1 }

/-- Command 2, restart: "currently a no-op" (R256, R264). -/
def systemRestart (s : State) : State := s

/-- Command 3: the request is latched for the host (R264, decision D11, log 17). -/
def systemShutdown (s : State) : State := s.setSys { s.sys with shutdownRequested := true }

/-- A command arrives at the idle device (R256); "any other operand → no-op". -/
def systemCommand (payload : Addr) (s : State) : State :=
  match payload.toNat with
  | 0 => systemQuery s
  | 1 => systemStage s
  | 2 => systemRestart s
  | 3 => systemShutdown s
  | _ => s

/-- `SystemDevice(payload)` (R256, R257). -/
def systemDevice (payload : Addr) (s : State) : State :=
  if s.sys.pending then systemArgument payload s else systemCommand payload s

/-- `OutputDispatch(dev, payload)` (R255): device 1 is the only one with a behaviour; every other id is a no-op (R259, R260). -/
def outputDispatch (dev : Word) (payload : Addr) (s : State) : State :=
  if dev = systemDeviceId then systemDevice payload s else s

end Sys2Proof.Machine
end

