-- ==== Sys2Proof/Machine/InputOutput.lean ====
section
/-! DEFINITION. `GIN` and `SOT` (spec/46_io.md sections 2 and 3). -/

namespace Sys2Proof.Machine

/-- R253: "`memory[operand] = ` next value popped from the input queue". -/
def execGin (n : Addr) (s : State) : Host.Outcome State Fault Refusal :=
  .next ((s.setInq s.inq.pop).writeWord n s.inq.popValue).advance

/-- R254: "dispatch `A` as a device id and `operand` as the payload to the output handler". -/
def execSot (n : Addr) (s : State) : Host.Outcome State Fault Refusal :=
  .next (outputDispatch s.a n s).advance

end Sys2Proof.Machine
end

