-- ==== Sys2Proof/Machine/Jumps.lean ====
section
/-! DEFINITION. `JMP`, `JIZ`, `JIE`, `JII` and `JBT` (spec/45_jumps.md). -/

namespace Sys2Proof.Machine

/-- R220: "`IAR = operand`; suppress auto-increment". -/
def execJmp (n : Addr) (s : State) : Host.Outcome State Fault Refusal :=
  .next (s.jumpIf true n)

/-- R221: "if `zero` flag set: `IAR = operand`, suppress increment". -/
def execJiz (n : Addr) (s : State) : Host.Outcome State Fault Refusal :=
  .next (s.jumpIf s.zero n)

/-- R222: "if `carry` flag set: `IAR = operand`, suppress increment". -/
def execJie (n : Addr) (s : State) : Host.Outcome State Fault Refusal :=
  .next (s.jumpIf s.carry n)

/-- R223: "if `inputAvailable` flag set: `IAR = operand`, suppress increment", the flag as wired. -/
def execJii (n : Addr) (s : State) : Host.Outcome State Fault Refusal :=
  .next (s.jumpIf (inputAvailableNow s) n)

/-- R224: the bit-test jump, in the reading the configuration names. -/
def execJbt (n : Addr) (s : State) : Host.Outcome State Fault Refusal :=
  .next (s.jumpIf (jbtCondition s.cfg.jbtReading s.a s.b) n)

end Sys2Proof.Machine
end

