-- ==== Sys2Proof/Machine/Loads.lean ====
section
/-! DEFINITION. `LDA` and `LAA` (spec/42_load_a.md). -/

namespace Sys2Proof.Machine

/-- R170: "`A = operand`; run ALU in current mode". -/
def execLda (n : Addr) (s : State) : Host.Outcome State Fault Refusal :=
  .next (s.setA (immediate n)).runAlu.advance

/-- R171: "`A = memory[operand]`; run ALU in current mode". -/
def execLaa (n : Addr) (s : State) : Host.Outcome State Fault Refusal :=
  .next (s.setA (memoryOperand s n)).runAlu.advance

end Sys2Proof.Machine
end

