-- ==== Sys2Proof/Machine/StoreBitwise.lean ====
section
/-! DEFINITION. `STR`, `STD` and `SSD` (spec/44_store_and_bitwise.md). -/

namespace Sys2Proof.Machine

/-- R200: "`memory[operand] = C`". -/
def execStr (n : Addr) (s : State) : Host.Outcome State Fault Refusal :=
  .next (s.writeWord n s.c).advance

/-- R201, in the order written (spec/40_step_cycle.md R133, decision D21, log 15): `C` is computed, then stored, then the mode is
set and the ALU derives `zero`. -/
def execStd (n : Addr) (s : State) : Host.Outcome State Fault Refusal :=
  let computed := s.setC (s.a &&& ~~~s.b)
  let stored   := computed.writeWord n computed.c
  .next (stored.setMode .other).runAlu.advance

/-- R202: the operand is ignored and memory is not written (decision D7, log 14). -/
def execSsd (_n : Addr) (s : State) : Host.Outcome State Fault Refusal :=
  .next ((s.setC (rotated s.a s.b)).setMode .other).runAlu.advance

end Sys2Proof.Machine
end

