-- ==== Sys2Proof/Machine/Dispatch.lean ====
section
/-! DEFINITION. `Execute(opcode, operand)` with the advance of `IAR` (spec/40_step_cycle.md R133, R134): one arm per instruction. -/

namespace Sys2Proof.Machine

def exec (i : Instr) (s : State) : Host.Outcome State Fault Refusal :=
  match i with
  | .lda n => Sys2Proof.Machine.execLda n s
  | .laa n => Sys2Proof.Machine.execLaa n s
  | .add n => Sys2Proof.Machine.execAdd n s
  | .sbd n => Sys2Proof.Machine.execSbd n s
  | .ada n => Sys2Proof.Machine.execAda n s
  | .sba n => Sys2Proof.Machine.execSba n s
  | .str n => Sys2Proof.Machine.execStr n s
  | .std n => Sys2Proof.Machine.execStd n s
  | .ssd n => Sys2Proof.Machine.execSsd n s
  | .jmp n => Sys2Proof.Machine.execJmp n s
  | .jiz n => Sys2Proof.Machine.execJiz n s
  | .jie n => Sys2Proof.Machine.execJie n s
  | .jii n => Sys2Proof.Machine.execJii n s
  | .jbt n => Sys2Proof.Machine.execJbt n s
  | .gin n => Sys2Proof.Machine.execGin n s
  | .sot n => Sys2Proof.Machine.execSot n s

end Sys2Proof.Machine
end

