-- ==== Sys2Proof/Machine/Trace.lean ====
section
/-! DEFINITION. The trace log: its append, its read-out, and the entry of a step (spec/40_step_cycle.md section 2,
spec/47_host_entry_points.md R296). -/

namespace Sys2Proof

/-- `TRACE_FIELDS(opcode, before, after)`: the pair `(field2, field3)`, OPEN in the spec (spec/40_step_cycle.md R137, decision
D13): a free value. DESIGN CHOICE (log 7), safe. -/
opaque Config.traceFields : OpcodeBits → Machine.State → Machine.State → Word × Word

end Sys2Proof

namespace Sys2Proof.Machine

/-- What a slot that nothing has written holds (spec/10_state.md R40). -/
def TraceEntry.zero : TraceEntry := { iar := 0, opcode := 0, field2 := 0, field3 := 0 }

/-- The entry in slot `i`. -/
def TraceLog.slotAt (l : TraceLog) (i : Nat) : TraceEntry := Sparse.get TraceEntry.zero l.slot i

/-- `TraceAppend` (R136): "writes at `count mod capacity`"; the overflow flag is set by the append that passes the capacity. -/
def TraceLog.append (l : TraceLog) (e : TraceEntry) : TraceLog where
  slot     := Sparse.put TraceEntry.zero l.slot (l.count % traceCap) e
  overflow := if l.count + 1 > traceCap then true else l.overflow
  count    := l.count + 1

/-- `drainTraceLog()` (spec/47_host_entry_points.md R296): the surviving entries, oldest first; it changes nothing (log 18). -/
def TraceLog.drain (l : TraceLog) : List TraceEntry :=
  if l.overflow then (List.range traceCap).map (fun i => l.slotAt ((l.count % traceCap + i) % traceCap))
  else (List.range l.count).map l.slotAt

/-- The canonical form of the log's storage. -/
abbrev TraceLog.wf (l : TraceLog) : Prop := Sparse.wf TraceEntry.zero traceCap l.slot

/-- The entry of the step that ran `i` from `before` and reached `after`: the address the instruction was fetched from, its
opcode, and the two open fields (R137). -/
def stepEntry (i : Instr) (before after : State) : TraceEntry where
  iar    := before.iar
  opcode := i.opcode
  field2 := (Config.traceFields i.opcode before after).1
  field3 := (Config.traceFields i.opcode before after).2

/-- The last action of a cycle: the entry is appended (spec/40_step_cycle.md R130, R137). -/
def logStep (i : Instr) (before after : State) : State :=
  after.setTrace (after.trace.append (stepEntry i before after))

end Sys2Proof.Machine
end

