-- ==== Sys2Proof/Machine/Step.lean ====
section
/-! DEFINITION. One call of `step()` (spec/40_step_cycle.md R130): fetch and decode, execute and advance, append to the trace log. -/

namespace Sys2Proof.Machine

/-- One cycle (R130). It answers a next state from every state (spec/00_scope.md R12); the other two arms pass on what `exec`
never answers. -/
def step (s : State) : Host.Outcome State Fault Refusal :=
  match exec (fetch s) s with
  | .next t    => .next (logStep (fetch s) s t)
  | .fault f   => .fault f
  | .refused r => .refused r

/-- The state with the word of bits `w` (those at or above `nbits` zero) in the cell `IAR` points at, so that the next step
runs it. It stands for the host's load of a program (log 22). -/
def State.withFetchWord (s : State) (nbits w : Nat) : State :=
  s.writeWord s.iar (BitVec.ofNat 16 (w % 2 ^ nbits))

end Sys2Proof.Machine
end

