-- ==== Sys2Proof/Machine/HostInterface.lean ====
section
/-! DEFINITION. The entry points through which the host drives the core (spec/47_host_entry_points.md), the boot sequence
(spec/70_reset_and_hazards.md R352), the calls the host may make (R298), and runs under a finite
or infinite schedule of pushes and steps (R299, R301). -/

namespace Sys2Proof.Machine

/-- The words of `image` copied into consecutive cells from address `k`, up to the end of memory. -/
def Memory.loadFrom (m : List Host.Cell) (k : Nat) : List Word → List Host.Cell
  | []            => m
  | w :: image =>
    if k < memWords then Memory.loadFrom (Memory.write m (BitVec.ofNat 12 k) w) (k + 1) image else m

/-- `load(words)` (R291): cells 0 to `min(L, 4096) - 1` are written and nothing else; excess words are dropped. -/
def State.load (s : State) (image : List Word) : State := { s with mem := Memory.loadFrom s.mem 0 image }

/-- The words of an image in bytes (R292): pairs, high byte first; a last byte without a partner is dropped (decision D15, log 16). -/
def wordsOfBytes : List Byte → List Word
  | hi :: lo :: rest => wordOfBytes hi lo :: wordsOfBytes rest
  | [_]              => []
  | []               => []

/-- `pushInput(deviceId, data)` (R293): `InqPush` and nothing else. -/
def State.pushInput (s : State) (dev data : Word) : State := s.setInq (s.inq.push dev data)

/-- `drainTraceLog()` (R296); it changes no state. -/
def State.drainTraceLog (s : State) : List TraceEntry := s.trace.drain

/-- What the read-only accessors return besides memory (R295, R297; decision D25, log 21). -/
structure HostView where
  a                 : Word
  b                 : Word
  c                 : Word
  iar               : Addr
  zero              : Bool
  carry             : Bool
  inputAvailable    : Bool
  clockSpeed        : Word
  shutdownRequested : Bool
  deriving DecidableEq, Repr

/-- The register, flag and output accessors (R295, R297); `inputAvailable` is the flag as wired (R31, log 4). -/
def State.hostView (s : State) : HostView where
  a                 := s.a
  b                 := s.b
  c                 := s.c
  iar               := s.iar
  zero              := s.zero
  carry             := s.carry
  inputAvailable    := inputAvailableNow s
  clockSpeed        := s.sys.clockSpeed
  shutdownRequested := s.sys.shutdownRequested

/-- The memory accessor (R295). -/
def State.hostReadMemory (s : State) (n : Addr) : Word := s.readWord n

/-- The operations an execution is made of after the boot (R299). -/
inductive HostOp where
  | step
  | pushInput (dev data : Word)
  deriving DecidableEq, Repr

/-- One operation of an execution; operations never overlap (R11, R298). -/
def hostOp (op : HostOp) (s : State) : Host.Outcome State Fault Refusal :=
  match op with
  | .step               => step s
  | .pushInput dev data => .next (s.pushInput dev data)

/-- How far the host has driven an instance (R298). It is the host's side of the protocol and no state of the core, which `load`
leaves as R291 says. DESIGN CHOICE (log 16), safe. -/
inductive Session where
  /-- Reset and not called yet: the one point at which `load` is admitted. -/
  | booting (cfg : Config)
  /-- Called at least once. -/
  | launched (s : State)
  deriving DecidableEq, Repr

/-- The machine of a session. -/
def Session.machine : Session → State
  | .booting cfg => State.resetWith cfg
  | .launched s  => s

/-- The calls of the host that can change the machine (R298, rows boot, run and input). -/
inductive HostCall where
  | load (image : List Word)
  | op (op : HostOp)
  deriving DecidableEq, Repr

/-- `load` as the host may call it: directly after reset (R291, R298, decision D15, log 16). A second `load`, or one after a step
or a push, has no move and is refused by name (R300). -/
def hostLoad (image : List Word) : Session → Host.Outcome Session Fault Refusal
  | .booting cfg => .next (.launched ((State.resetWith cfg).load image))
  | .launched _  => .refused .loadOutsideBoot

/-- One call of the host (R298). `step` and `pushInput` are admitted at every point (R293, R301: "`step()` never refuses"); before
any `load` they run the machine as reset left it. -/
def hostCall (call : HostCall) (h : Session) : Host.Outcome Session Fault Refusal :=
  match call with
  | .load image => hostLoad image h
  | .op op      =>
    match hostOp op h.machine with
    | .next t    => .next (.launched t)
    | .fault f   => .fault f
    | .refused r => .refused r

/-- The host's calls in order, the first misuse refused. -/
def runCalls : List HostCall → Session → Host.Outcome Session Fault Refusal
  | [], h            => .next h
  | call :: calls, h =>
    match hostCall call h with
    | .next h'   => runCalls calls h'
    | .fault f   => .fault f
    | .refused r => .refused r

/-- The launch state of a program (R352): reset with the given open parameters, `load(image)`, then the pushes. -/
def boot (cfg : Config) (image : List Word) (pushes : List QueueEntry) : State :=
  pushes.foldl (fun s e => s.pushInput e.deviceId e.data) ((State.resetWith cfg).load image)

/-- A finite execution (R299). -/
def runSchedule : List HostOp → State → Host.Outcome State Fault Refusal
  | [], s        => .next s
  | op :: ops, s =>
    match hostOp op s with
    | .next t    => runSchedule ops t
    | .fault f   => .fault f
    | .refused r => .refused r

/-- The first `n` operations of an infinite schedule. -/
def firstOps (schedule : Nat → HostOp) (n : Nat) : List HostOp := (List.range n).map schedule

/-- An infinite execution (R299), observed after its first `n` operations. -/
def runFirst (schedule : Nat → HostOp) (n : Nat) (s : State) : Host.Outcome State Fault Refusal :=
  runSchedule (firstOps schedule n) s

/-- `k` steps with no host operation between them. -/
def runSteps : Nat → State → Host.Outcome State Fault Refusal
  | 0, s      => .next s
  | k + 1, s =>
    match step s with
    | .next t    => runSteps k t
    | .fault f   => .fault f
    | .refused r => .refused r

/-- The default of `RUN_END` (R301, decision D17, log 8): a shutdown has been requested. -/
def runEndDefault (s : State) : Bool := s.sys.shutdownRequested

/-- Does the run end with the operation `op` that left the state `t`? Only a step ends a run (R301). -/
def endsRun (runEnd : State → Bool) (op : HostOp) (t : State) : Bool :=
  match op with
  | .step          => runEnd t
  | .pushInput _ _ => false

/-- A run under a schedule of pushes and steps, ending after the first step that leaves `runEnd` true; the rest of the schedule is
then not performed (R301). -/
def runScheduleUntil (runEnd : State → Bool) : List HostOp → State → Host.Outcome State Fault Refusal
  | [], s        => .next s
  | op :: ops, s =>
    match hostOp op s with
    | .next t    => if endsRun runEnd op t then .next t else runScheduleUntil runEnd ops t
    | .fault f   => .fault f
    | .refused r => .refused r

/-- A run under an infinite schedule, observed after its first `n` operations or where it ended before (R299, R301). -/
def runFirstUntil (runEnd : State → Bool) (schedule : Nat → HostOp) (n : Nat) (s : State) :
    Host.Outcome State Fault Refusal :=
  runScheduleUntil runEnd (firstOps schedule n) s

/-- At most `fuel` steps with no push between them, ending after the first step that leaves `runEnd` true (R301). -/
def runUntil (runEnd : State → Bool) (fuel : Nat) (s : State) : Host.Outcome State Fault Refusal :=
  runScheduleUntil runEnd (List.replicate fuel .step) s

end Sys2Proof.Machine
end

