-- ==== Sys2Proof/Safety.lean ====
section
/-! DEFINITION. What counts as a legal state, and the terms the claims are stated in. -/

namespace Sys2Proof

open Sys2Proof.Machine

/-- The legal states: memory and both rings in canonical form within their sizes, the overflow flag as
spec/40_step_cycle.md R136 sets it, the flag no operation drives still false (spec/10_state.md R31), and a staged command is
command 1, "the only value ever stored" (spec/10_state.md R37). -/
structure Inv (s : State) : Prop where
  memory         : Memory.wf s.mem
  queue          : InputQueue.wf s.inq
  log            : TraceLog.wf s.trace
  overflow       : s.trace.overflow = decide (traceCap < s.trace.count)
  inputAvailable : s.inputAvailable = false
  staged         : s.sys.pending = true → s.sys.command = 1

/-! What an instruction leaves unchanged. -/

/-- `A`, `B` and `C` are unchanged. -/
def KeepsRegisters (s t : State) : Prop := t.a = s.a ∧ t.b = s.b ∧ t.c = s.c

/-- The three flags are unchanged. -/
def KeepsFlags (s t : State) : Prop :=
  t.zero = s.zero ∧ t.carry = s.carry ∧ t.inputAvailable = s.inputAvailable

/-- The input queue and the system device are unchanged. -/
def KeepsIo (s t : State) : Prop := t.inq = s.inq ∧ t.sys = s.sys

/-- The trace log and the configuration are unchanged. -/
def KeepsLogAndConfig (s t : State) : Prop := t.trace = s.trace ∧ t.cfg = s.cfg

/-- Every byte of memory is unchanged. -/
def KeepsMemory (s t : State) : Prop := ∀ k : Nat, Memory.byteAt t.mem k = Memory.byteAt s.mem k

/-- Every byte of memory outside the word at `n` is unchanged. -/
def KeepsMemoryBut (n : Addr) (s t : State) : Prop :=
  ∀ k : Nat, k ≠ 2 * n.toNat → k ≠ 2 * n.toNat + 1 → Memory.byteAt t.mem k = Memory.byteAt s.mem k

/-- `IAR` is one further, 4095 going to 0 (spec/40_step_cycle.md R134, R135). -/
def Advances (s t : State) : Prop := t.iar.toNat = (s.iar.toNat + 1) % 4096

/-- The ALU has run in `mode` on the registers `a`, `b`, the old `c` and the old carry flag, and `t` holds its results
(spec/41_alu.md R151), on unbounded integers as that rule writes them. -/
def AluRan (mode : AluMode) (a b c : Word) (carry : Bool) (t : State) : Prop :=
  (match mode with
    | .add      => t.c.toNat = (a.toNat + b.toNat) % 65536 ∧ (t.carry = true ↔ a.toNat + b.toNat ≥ 65536)
    | .subtract => (t.c.toNat : Int) = ((a.toNat : Int) - (b.toNat : Int)) % 65536 ∧ (t.carry = true ↔ a.toNat < b.toNat)
    | .other    => t.c = c ∧ t.carry = carry) ∧
  (t.zero = true ↔ t.c.toNat = 0)

/-- The word numbered `w` is the instruction's encoding and decodes to it. -/
def HasWord (i : Instr) (w : Nat) : Prop := (encodeWord i).toNat = w ∧ decodeWord (BitVec.ofNat 16 w) = i

/-! What each instruction may change, read from the rules' lists of writers. -/

/-- `i` is a jump whose condition holds in `s` (spec/40_step_cycle.md R134). -/
def jumpTaken (i : Instr) (s : State) : Bool :=
  match i with
  | .jmp _ => true
  | .jiz _ => s.zero
  | .jie _ => s.carry
  | .jii _ => inputAvailableNow s
  | .jbt _ => jbtCondition s.cfg.jbtReading s.a s.b
  | .lda _ | .laa _ | .add _ | .sbd _ | .ada _ | .sba _ | .str _ | .std _ | .ssd _ | .gin _ | .sot _ => false

/-- `i` runs the ALU (spec/41_alu.md R156). -/
def runsAlu (i : Instr) : Bool :=
  match i with
  | .lda _ | .laa _ | .add _ | .sbd _ | .ada _ | .sba _ | .std _ | .ssd _ => true
  | .str _ | .jmp _ | .jiz _ | .jie _ | .jii _ | .jbt _ | .gin _ | .sot _ => false

/-- `i` loads `A` (spec/10_state.md R21). -/
def loadsA (i : Instr) : Bool :=
  match i with
  | .lda _ | .laa _ => true
  | .add _ | .sbd _ | .ada _ | .sba _ | .str _ | .std _ | .ssd _ | .jmp _ | .jiz _ | .jie _ | .jii _ | .jbt _ | .gin _
  | .sot _ => false

/-- `i` loads `B` (spec/10_state.md R22). -/
def loadsB (i : Instr) : Bool :=
  match i with
  | .add _ | .sbd _ | .ada _ | .sba _ => true
  | .lda _ | .laa _ | .str _ | .std _ | .ssd _ | .jmp _ | .jiz _ | .jie _ | .jii _ | .jbt _ | .gin _ | .sot _ => false

/-- `i` writes `C` when the ALU mode before it is `mode` (spec/10_state.md R23). -/
def writesC (i : Instr) (mode : AluMode) : Bool :=
  match i with
  | .lda _ | .laa _ => decide (mode ≠ .other)
  | .add _ | .sbd _ | .ada _ | .sba _ | .std _ | .ssd _ => true
  | .str _ | .jmp _ | .jiz _ | .jie _ | .jii _ | .jbt _ | .gin _ | .sot _ => false

/-- `i` writes `carry` when the ALU mode before it is `mode` (spec/10_state.md R30). -/
def writesCarry (i : Instr) (mode : AluMode) : Bool :=
  match i with
  | .lda _ | .laa _ => decide (mode ≠ .other)
  | .add _ | .sbd _ | .ada _ | .sba _ => true
  | .str _ | .std _ | .ssd _ | .jmp _ | .jiz _ | .jie _ | .jii _ | .jbt _ | .gin _ | .sot _ => false

/-- The ALU mode after `i`, from the mode before it (spec/10_state.md R34). -/
def modeAfter (i : Instr) (mode : AluMode) : AluMode :=
  match i with
  | .add _ | .ada _ => .add
  | .sbd _ | .sba _ => .subtract
  | .std _ | .ssd _ => .other
  | .lda _ | .laa _ | .str _ | .jmp _ | .jiz _ | .jie _ | .jii _ | .jbt _ | .gin _ | .sot _ => mode

/-- The address and the word `i` stores in `s`, if it stores (spec/20_memory.md R67). -/
def storeOf (i : Instr) (s : State) : Option (Addr × Word) :=
  match i with
  | .str n => some (n, s.c)
  | .std n => some (n, s.a &&& ~~~s.b)
  | .gin n => some (n, s.inq.popValue)
  | .lda _ | .laa _ | .add _ | .sbd _ | .ada _ | .sba _ | .ssd _ | .jmp _ | .jiz _ | .jie _ | .jii _ | .jbt _
  | .sot _ => none

/-- `i` pops or may push the input queue (spec/46_io.md R251, R252). -/
def touchesQueue (i : Instr) : Bool :=
  match i with
  | .gin _ | .sot _ => true
  | .lda _ | .laa _ | .add _ | .sbd _ | .ada _ | .sba _ | .str _ | .std _ | .ssd _ | .jmp _ | .jiz _ | .jie _ | .jii _
  | .jbt _ => false

/-- `i` is an output to the system device in `s` (spec/46_io.md R258). -/
def outputsToSystem (i : Instr) (s : State) : Bool :=
  match i with
  | .sot _ => decide (s.a = 1)
  | .lda _ | .laa _ | .add _ | .sbd _ | .ada _ | .sba _ | .str _ | .std _ | .ssd _ | .jmp _ | .jiz _ | .jie _ | .jii _
  | .jbt _ | .gin _ => false

/-! The input queue as the stack it is (spec/46_io.md R261). -/

/-- The queue's outstanding data words are `stack`, the latest push first; at most 4096 are outstanding. -/
def Represents (q : InputQueue) (stack : List Word) : Prop :=
  q.count = stack.length ∧ stack.length ≤ 4096 ∧
    ∀ (k : Nat) (h : k < stack.length), (q.slotAt ((q.cursor.toNat + 4096 - k) % 4096)).data = stack[k]

/-- Pushes in order. -/
def pushAll (q : InputQueue) (entries : List QueueEntry) : InputQueue :=
  entries.foldl (fun q e => q.push e.deviceId e.data) q

/-- The words that `k` pops return, in order. -/
def pops : Nat → InputQueue → List Word
  | 0, _     => []
  | k + 1, q => q.popValue :: pops k q.pop

/-- The two states differ at most in what only the host reads: the trace log and the shutdown latch. -/
def SameForPrograms (s t : State) : Prop :=
  { t with trace := s.trace, sys := { t.sys with shutdownRequested := s.sys.shutdownRequested } } = s

end Sys2Proof
end

