-- ==== Sys2Proof/WellFormed.lean ====
section
/-! DEFINITION. What is well formed: every instruction (spec/30_encoding.md R95), a program image of at most 4096 words
(spec/30_encoding.md R109, spec/47_host_entry_points.md R298), and a configuration whose device ids are as spec/00_scope.md R7 asks. -/

namespace Sys2Proof

/-- Every instruction is well formed: the operand's type already bounds it, and "every operand value is accepted by
every opcode" (R95). -/
def Instr.wf : Instr → Bool
  | .lda _ | .laa _ | .add _ | .sbd _ | .ada _ | .sba _ | .str _ | .std _
  | .ssd _ | .jmp _ | .jiz _ | .jie _ | .jii _ | .jbt _ | .gin _ | .sot _ => true

/-- "Program Image: ordered sequence of Words, length ≤ 4096 (memory capacity)". -/
def imageWf (image : List Word) : Bool :=
  decide (image.length ≤ memWords)

/-- `KEYBOARD_ID` and `MOUSE_ID` are "each different from 1 and from each other" (R7). -/
def Config.wf (cfg : Config) : Bool :=
  cfg.keyboardId != systemDeviceId && cfg.mouseId != systemDeviceId && cfg.keyboardId != cfg.mouseId

end Sys2Proof
end

