-- ==== Sys2Proof/Certificates/Slice0/Obligations.lean ====
section
/-! DEFINITION. The statements for the provers. Each docstring names what it formalises. -/

open Sys2Proof Sys2Proof.Machine

/-! Encoding -/

/-- Words written out in spec/95_test_vectors.md section 2.1 decode as listed there. -/
def Obligations.ListedWordsDecodeAsListed : Prop :=
  decodeWord 0x0FFF = .lda 4095 ∧ decodeWord 0x1008 = .laa 8 ∧ decodeWord 0x300A = .sbd 10 ∧
  decodeWord 0x5014 = .sba 20 ∧ decodeWord 0x700D = .std 13 ∧ decodeWord 0x8ABC = .ssd 2748 ∧
  decodeWord 0xB005 = .jie 5 ∧ decodeWord 0xD004 = .jbt 4 ∧ decodeWord 0xE010 = .gin 16 ∧
  decodeWord 0xFFFF = .sot 4095

/-- R91: the two fields, and decoding as a bijection between words and (opcode, operand) pairs. -/
def Obligations.DecodingIsTotalAndInjective : Prop :=
  (∀ w : Word, (decodeWord w).opcode.toNat = w.toNat >>> 12 ∧ (decodeWord w).operand.toNat = w.toNat &&& 0xFFF) ∧
  (∀ w v : Word, decodeWord w = decodeWord v → w = v) ∧
  (∀ (p : OpcodeBits) (n : Addr), ∃! w : Word, (decodeWord w).opcode = p ∧ (decodeWord w).operand = n)

/-- R90: `w = p * 4096 + n`, and decoding an instruction's word, or its two bytes with more bytes behind them, gives it back; the
word of a decoded word is that word. -/
def Obligations.DecodeAndEncodeAgree : Prop :=
  (∀ i : Instr, i.wf = true →
    (encodeWord i).toNat = i.opcode.toNat * 4096 + i.operand.toNat ∧ decodeWord (encodeWord i) = i ∧
    ∀ rest : List Byte, decodeBytes (encodeBytes i ++ rest) = .ok (i, rest)) ∧
  (∀ w : Word, encodeWord (decodeWord w) = w)

/-! The cycle -/

/-- R131: the word at `IAR` when the step begins is what is executed; around `exec` the step appends one trace entry, with the old
`IAR`, the opcode, and the free fields of log 7. -/
def Obligations.StepRunsTheFetchedInstruction : Prop :=
  ∀ (s : State) (i : Instr),
    decodeBytes [Memory.byteAt s.mem (2 * s.iar.toNat), Memory.byteAt s.mem (2 * s.iar.toNat + 1)] = .ok (i, []) →
    ∃ t, exec i s = .next t ∧
      step s = .next { t with
        trace := t.trace.append
          { iar := s.iar, opcode := i.opcode,
            field2 := (Config.traceFields i.opcode s t).1, field3 := (Config.traceFields i.opcode s t).2 } }

/-- R134: after a taken jump `IAR` is the operand, after every other instruction it is one further with wrap. -/
def Obligations.IarAfterEveryStep : Prop :=
  ∀ s : State, ∃ t, step s = .next t ∧
    t.iar.toNat = if jumpTaken (fetch s) s then (fetch s).operand.toNat else (s.iar.toNat + 1) % 4096

/-- R12: every state has exactly one next state, and any number of steps can be taken. -/
def Obligations.EveryStateHasExactlyOneNextState : Prop :=
  (∀ s : State, ∃! t, step s = .next t) ∧ ∀ (k : Nat) (s : State), ∃ t, runSteps k s = .next t

/-- spec/40_step_cycle.md section 2: each step appends one entry at `count mod 4096` and touches no other slot. The two open fields
are whatever log 7's free value gives. -/
def Obligations.EveryStepAppendsOneTraceEntry : Prop :=
  ∀ s : State, ∃ t, step s = .next t ∧
    t.trace.count = s.trace.count + 1 ∧
    (t.trace.slotAt (s.trace.count % 4096)).iar = s.iar ∧
    (t.trace.slotAt (s.trace.count % 4096)).opcode = opcodeOf (Memory.read s.mem s.iar) ∧
    (∀ i, i ≠ s.trace.count % 4096 → t.trace.slotAt i = s.trace.slotAt i) ∧
    (t.trace.overflow = true ↔ s.trace.overflow = true ∨ 4096 < s.trace.count + 1)

/-- spec/60_exceptions.md section 6: the log's count grows by the number of steps, and the overflow flag is set by the append that
passes 4096, never cleared (the unbounded count is log 13). -/
def Obligations.TraceCountCountsSteps : Prop :=
  ∀ (k : Nat) (s : State), ∃ t, runSteps k s = .next t ∧
    t.trace.count = s.trace.count + k ∧
    (s.trace.overflow = decide (4096 < s.trace.count) → t.trace.overflow = decide (4096 < s.trace.count + k))

/-- spec/47_host_entry_points.md section 1 (`drainTraceLog`; that it changes nothing is log 18): after any appends to an empty log
it returns the last 4096 of them, oldest first. -/
def Obligations.DrainReturnsLastEntriesOldestFirst : Prop :=
  ∀ entries : List TraceEntry,
    (entries.foldl TraceLog.append TraceLog.reset).drain = entries.drop (entries.length - 4096)

/-! The ALU -/

/-- R151: `RunALU()` in each mode; nothing but `C`, `carry` and `zero` is written. -/
def Obligations.RunAluComputesAsTheRuleWrites : Prop :=
  ∀ s : State, AluRan s.aluMode s.a s.b s.c s.carry s.runAlu ∧
    { s.runAlu with c := s.c, carry := s.carry, zero := s.zero } = s

/-- R152: in mode `Add`, `C` and `carry` are the low 16 bits and bit 16 of the 17-bit sum, and `zero` means the sum is 0 or 65536;
with the source's worked example. -/
def Obligations.AddGivesTheSeventeenBitSum : Prop :=
  (∀ s : State, s.aluMode = .add →
    s.runAlu.c = (s.a.setWidth 17 + s.b.setWidth 17).setWidth 16 ∧
    s.runAlu.carry = (s.a.setWidth 17 + s.b.setWidth 17).getLsbD 16 ∧
    (s.runAlu.carry = true ↔ ¬ s.a.toNat + s.b.toNat < 65536) ∧
    (s.runAlu.zero = true ↔ s.a.toNat + s.b.toNat = 0 ∨ s.a.toNat + s.b.toNat = 65536) ∧
    (s.runAlu.zero = true ↔ (s.a = 0 ∧ s.b = 0) ∨ s.a.toNat + s.b.toNat = 65536)) ∧
  (∀ s : State, s.aluMode = .add → s.a = 60000 → s.b = 10000 →
    s.runAlu.c = 4464 ∧ s.runAlu.carry = true ∧ s.runAlu.zero = false)

/-- spec/41_alu.md section 1, mode `Subtract`: `carry` is a borrow, the opposite of the carry-out of `A + ~B + 1`; `zero` means
`A = B`. The carry-out clause is an inference the spec marks as its own ("[derived: from rule R151]"). -/
def Obligations.SubtractCarryIsABorrow : Prop :=
  ∀ s : State, s.aluMode = .subtract →
    s.runAlu.c = s.a - s.b ∧
    (s.runAlu.carry = true ↔ (s.a.toNat : Int) - (s.b.toNat : Int) < 0) ∧
    s.runAlu.carry = !((s.a.setWidth 17 + (~~~s.b).setWidth 17 + 1).getLsbD 16) ∧
    (s.runAlu.zero = true ↔ s.a = s.b)

/-- spec/41_alu.md, on the zero flag: every instruction that runs the ALU leaves `zero = (C = 0)`, and every step keeps it so. That
it then holds for ever is an inference the spec marks as its own. -/
def Obligations.ZeroFlagFollowsC : Prop :=
  ∀ s : State, ∃ t, step s = .next t ∧
    (runsAlu (fetch s) = true → (t.zero = true ↔ t.c = 0#16)) ∧
    ((s.zero = true ↔ s.c = 0#16) → (t.zero = true ↔ t.c = 0#16))

/-! The instructions: encoding, result, frame -/

/-- R170. -/
def Obligations.LdaLoadsImmediateAndRunsAlu : Prop :=
  ∀ (n : Addr) (s : State), HasWord (.lda n) (0x0000 + n.toNat) ∧
    ∃ t, exec (.lda n) s = .next t ∧
      t.a.toNat = n.toNat ∧ AluRan s.aluMode t.a s.b s.c s.carry t ∧
      t.b = s.b ∧ t.inputAvailable = s.inputAvailable ∧ t.aluMode = s.aluMode ∧
      KeepsMemory s t ∧ KeepsIo s t ∧ KeepsLogAndConfig s t ∧ Advances s t

/-- R171. -/
def Obligations.LaaLoadsMemoryWordAndRunsAlu : Prop :=
  ∀ (n : Addr) (s : State), HasWord (.laa n) (0x1000 + n.toNat) ∧
    ∃ t, exec (.laa n) s = .next t ∧
      t.a = Memory.read s.mem n ∧ AluRan s.aluMode t.a s.b s.c s.carry t ∧
      t.b = s.b ∧ t.inputAvailable = s.inputAvailable ∧ t.aluMode = s.aluMode ∧
      KeepsMemory s t ∧ KeepsIo s t ∧ KeepsLogAndConfig s t ∧ Advances s t

/-- R180. -/
def Obligations.AddAddsImmediate : Prop :=
  ∀ (n : Addr) (s : State), HasWord (.add n) (0x2000 + n.toNat) ∧
    ∃ t, exec (.add n) s = .next t ∧
      t.b.toNat = n.toNat ∧ t.aluMode = .add ∧ AluRan .add s.a t.b s.c s.carry t ∧
      t.a = s.a ∧ t.inputAvailable = s.inputAvailable ∧
      KeepsMemory s t ∧ KeepsIo s t ∧ KeepsLogAndConfig s t ∧ Advances s t

/-- R181. -/
def Obligations.SbdSubtractsImmediate : Prop :=
  ∀ (n : Addr) (s : State), HasWord (.sbd n) (0x3000 + n.toNat) ∧
    ∃ t, exec (.sbd n) s = .next t ∧
      t.b.toNat = n.toNat ∧ t.aluMode = .subtract ∧ AluRan .subtract s.a t.b s.c s.carry t ∧
      t.a = s.a ∧ t.inputAvailable = s.inputAvailable ∧
      KeepsMemory s t ∧ KeepsIo s t ∧ KeepsLogAndConfig s t ∧ Advances s t

/-- R182. -/
def Obligations.AdaAddsMemoryWord : Prop :=
  ∀ (n : Addr) (s : State), HasWord (.ada n) (0x4000 + n.toNat) ∧
    ∃ t, exec (.ada n) s = .next t ∧
      t.b = Memory.read s.mem n ∧ t.aluMode = .add ∧ AluRan .add s.a t.b s.c s.carry t ∧
      t.a = s.a ∧ t.inputAvailable = s.inputAvailable ∧
      KeepsMemory s t ∧ KeepsIo s t ∧ KeepsLogAndConfig s t ∧ Advances s t

/-- R183. -/
def Obligations.SbaSubtractsMemoryWord : Prop :=
  ∀ (n : Addr) (s : State), HasWord (.sba n) (0x5000 + n.toNat) ∧
    ∃ t, exec (.sba n) s = .next t ∧
      t.b = Memory.read s.mem n ∧ t.aluMode = .subtract ∧ AluRan .subtract s.a t.b s.c s.carry t ∧
      t.a = s.a ∧ t.inputAvailable = s.inputAvailable ∧
      KeepsMemory s t ∧ KeepsIo s t ∧ KeepsLogAndConfig s t ∧ Advances s t

/-- R200. -/
def Obligations.StrStoresC : Prop :=
  ∀ (n : Addr) (s : State), HasWord (.str n) (0x6000 + n.toNat) ∧
    ∃ t, exec (.str n) s = .next t ∧
      Memory.read t.mem n = s.c ∧ KeepsMemoryBut n s t ∧
      KeepsRegisters s t ∧ KeepsFlags s t ∧ t.aluMode = s.aluMode ∧
      KeepsIo s t ∧ KeepsLogAndConfig s t ∧ Advances s t

/-- R201. -/
def Obligations.StdStoresAWithoutTheBitsOfB : Prop :=
  ∀ (n : Addr) (s : State), HasWord (.std n) (0x7000 + n.toNat) ∧
    ∃ t, exec (.std n) s = .next t ∧
      (∀ i < 16, t.c.getLsbD i = (s.a.getLsbD i && !s.b.getLsbD i)) ∧
      Memory.read t.mem n = t.c ∧ KeepsMemoryBut n s t ∧
      (t.zero = true ↔ t.c.toNat = 0) ∧ t.aluMode = .other ∧
      t.a = s.a ∧ t.b = s.b ∧ t.carry = s.carry ∧ t.inputAvailable = s.inputAvailable ∧
      KeepsIo s t ∧ KeepsLogAndConfig s t ∧ Advances s t

/-- spec/44_store_and_bitwise.md, `SSD`: bit `i` of `C` is bit `(i + B mod 16) mod 16` of `A`. That memory and `A` are unchanged and the
operand is ignored is the spec's own decision D7 (log 14). -/
def Obligations.SsdRotatesAIntoC : Prop :=
  ∀ (n : Addr) (s : State), HasWord (.ssd n) (0x8000 + n.toNat) ∧
    ∃ t, exec (.ssd n) s = .next t ∧
      (∀ i < 16, t.c.getLsbD i = s.a.getLsbD ((i + s.b.toNat % 16) % 16)) ∧
      (t.zero = true ↔ t.c.toNat = 0) ∧ t.aluMode = .other ∧
      t.a = s.a ∧ t.b = s.b ∧ t.carry = s.carry ∧ t.inputAvailable = s.inputAvailable ∧
      KeepsMemory s t ∧ KeepsIo s t ∧ KeepsLogAndConfig s t ∧ Advances s t ∧
      ∀ m : Addr, exec (.ssd m) s = .next t

/-- R220. -/
def Obligations.JmpJumpsAlways : Prop :=
  ∀ (n : Addr) (s : State), HasWord (.jmp n) (0x9000 + n.toNat) ∧
    ∃ t, exec (.jmp n) s = .next t ∧ t.iar = n ∧
      KeepsRegisters s t ∧ KeepsFlags s t ∧ t.aluMode = s.aluMode ∧
      KeepsMemory s t ∧ KeepsIo s t ∧ KeepsLogAndConfig s t

/-- R221. -/
def Obligations.JizJumpsIfZero : Prop :=
  ∀ (n : Addr) (s : State), HasWord (.jiz n) (0xA000 + n.toNat) ∧
    ∃ t, exec (.jiz n) s = .next t ∧
      (s.zero = true → t.iar = n) ∧ (s.zero = false → Advances s t) ∧
      KeepsRegisters s t ∧ KeepsFlags s t ∧ t.aluMode = s.aluMode ∧
      KeepsMemory s t ∧ KeepsIo s t ∧ KeepsLogAndConfig s t

/-- R222. -/
def Obligations.JieJumpsIfCarry : Prop :=
  ∀ (n : Addr) (s : State), HasWord (.jie n) (0xB000 + n.toNat) ∧
    ∃ t, exec (.jie n) s = .next t ∧
      (s.carry = true → t.iar = n) ∧ (s.carry = false → Advances s t) ∧
      KeepsRegisters s t ∧ KeepsFlags s t ∧ t.aluMode = s.aluMode ∧
      KeepsMemory s t ∧ KeepsIo s t ∧ KeepsLogAndConfig s t

/-- spec/45_jumps.md, `JII`, in both wirings of `INPUT_AVAILABLE_WIRING` (log 4). -/
def Obligations.JiiJumpsAsWired : Prop :=
  ∀ (n : Addr) (s : State), HasWord (.jii n) (0xC000 + n.toNat) ∧
    ∃ t, exec (.jii n) s = .next t ∧
      (s.cfg.inputAvailableWiring = .neverDriven →
        (s.inputAvailable = true → t.iar = n) ∧ (s.inputAvailable = false → Advances s t)) ∧
      (s.cfg.inputAvailableWiring = .queueNonEmpty →
        (0 < s.inq.count → t.iar = n) ∧ (s.inq.count = 0 → Advances s t)) ∧
      KeepsRegisters s t ∧ KeepsFlags s t ∧ t.aluMode = s.aluMode ∧
      KeepsMemory s t ∧ KeepsIo s t ∧ KeepsLogAndConfig s t

/-- spec/45_jumps.md, `JBT`, in both readings of `JBT_READING` (log 3). -/
def Obligations.JbtJumpsInBothReadings : Prop :=
  ∀ (n : Addr) (s : State), HasWord (.jbt n) (0xD000 + n.toNat) ∧
    ∃ t, exec (.jbt n) s = .next t ∧
      (s.cfg.jbtReading = .allBitsOfB →
        ((∀ i < 16, s.b.getLsbD i = true → s.a.getLsbD i = true) → t.iar = n) ∧
        ((∃ i < 16, s.b.getLsbD i = true ∧ s.a.getLsbD i = false) → Advances s t)) ∧
      (s.cfg.jbtReading = .lowBitOfA →
        (s.a.toNat % 2 = 1 → t.iar = n) ∧ (s.a.toNat % 2 = 0 → Advances s t)) ∧
      KeepsRegisters s t ∧ KeepsFlags s t ∧ t.aluMode = s.aluMode ∧
      KeepsMemory s t ∧ KeepsIo s t ∧ KeepsLogAndConfig s t

/-- spec/45_jumps.md, `JBT`, corner cases: the readings of log 3 agree exactly where "`A` is odd" and "`(A & B) = B`" agree, so
wherever `B = 1`. -/
def Obligations.JbtReadingsAgreeWhenBIsOne : Prop :=
  (∀ a : Word, jbtCondition .allBitsOfB a 1 = jbtCondition .lowBitOfA a 1) ∧
  (∀ a b : Word, jbtCondition .allBitsOfB a b = jbtCondition .lowBitOfA a b ↔ (a.toNat % 2 = 1 ↔ a &&& b = b)) ∧
  (∀ a : Word, a.toNat % 2 = 0 → jbtCondition .allBitsOfB a 0 = true ∧ jbtCondition .lowBitOfA a 0 = false)

/-- spec/46_io.md, `GIN`: the latest outstanding data word, or 0 from an empty queue. That an empty pop leaves the cursor is the
spec's own decision D23 (log 19). -/
def Obligations.GinStoresThePoppedWord : Prop :=
  ∀ (n : Addr) (s : State), HasWord (.gin n) (0xE000 + n.toNat) ∧
    ∃ t, exec (.gin n) s = .next t ∧
      (s.inq.count = 0 → Memory.read t.mem n = 0 ∧ t.inq = s.inq) ∧
      (0 < s.inq.count →
        Memory.read t.mem n = (s.inq.slotAt s.inq.cursor.toNat).data ∧
        t.inq.count + 1 = s.inq.count ∧ t.inq.cursor.toNat = (s.inq.cursor.toNat + 4095) % 4096 ∧
        ∀ i, t.inq.slotAt i = s.inq.slotAt i) ∧
      KeepsMemoryBut n s t ∧ KeepsRegisters s t ∧ KeepsFlags s t ∧ t.aluMode = s.aluMode ∧
      t.sys = s.sys ∧ KeepsLogAndConfig s t ∧ Advances s t

/-- R254: the device id is all of `A`, the payload the operand; nothing but the queue and the device can change. -/
def Obligations.SotDispatchesOnAAndKeepsTheRest : Prop :=
  ∀ (n : Addr) (s : State), HasWord (.sot n) (0xF000 + n.toNat) ∧
    ∃ t, exec (.sot n) s = .next t ∧
      t.inq = (outputDispatch s.a n s).inq ∧ t.sys = (outputDispatch s.a n s).sys ∧
      KeepsRegisters s t ∧ KeepsFlags s t ∧ t.aluMode = s.aluMode ∧
      KeepsMemory s t ∧ KeepsLogAndConfig s t ∧ Advances s t

/-- R260: "All other device ids are no-ops": every id but 1, 0 among them. -/
def Obligations.SotToOtherDevicesDoesNothing : Prop :=
  ∀ (n : Addr) (s : State), s.a ≠ 1 →
    ∃ t, exec (.sot n) s = .next t ∧ { t with iar := s.iar } = s ∧ Advances s t

/-- spec/46_io.md section 4, keyboard and mouse: in a configuration with legal device ids (log 6) an output to either does nothing. -/
def Obligations.SotToKeyboardOrMouseDoesNothing : Prop :=
  ∀ (n : Addr) (s : State), s.cfg.wf = true → s.a = s.cfg.keyboardId ∨ s.a = s.cfg.mouseId →
    ∃ t, exec (.sot n) s = .next t ∧ { t with iar := s.iar } = s ∧ Advances s t

/-- R257: the payload of an output to the staged device is the argument. -/
def Obligations.SotArgumentSetsTheClockSpeed : Prop :=
  ∀ (n : Addr) (s : State), s.a = 1 → s.sys.pending = true →
    ∃ t, exec (.sot n) s = .next t ∧
      t.sys.pending = false ∧
      (s.sys.command = 1 → t.sys.clockSpeed.toNat = n.toNat) ∧
      (s.sys.command ≠ 1 → t.sys.clockSpeed = s.sys.clockSpeed) ∧
      (Inv s → t.sys.clockSpeed.toNat = n.toNat) ∧
      t.sys.command = s.sys.command ∧ t.sys.shutdownRequested = s.sys.shutdownRequested ∧
      { t with iar := s.iar, sys := s.sys } = s ∧ Advances s t

/-- spec/46_io.md section 4: the commands of the idle device. That command 3 sets a latch is the spec's own decision D11 (log 17); the
pushed answer's unclamped count is D8 (log 13). -/
def Obligations.SotCommandsToTheIdleDevice : Prop :=
  ∀ (n : Addr) (s : State), s.a = 1 → s.sys.pending = false →
    ∃ t, exec (.sot n) s = .next t ∧
      { t with iar := s.iar, sys := s.sys, inq := s.inq } = s ∧ Advances s t ∧
      (n.toNat = 0 → t.sys = s.sys ∧ t.inq.count = s.inq.count + 1 ∧
        t.inq.cursor.toNat = (s.inq.cursor.toNat + 1) % 4096 ∧
        t.inq.slotAt t.inq.cursor.toNat = { deviceId := 1, data := s.sys.clockSpeed } ∧
        ∀ i, i ≠ t.inq.cursor.toNat → t.inq.slotAt i = s.inq.slotAt i) ∧
      (n.toNat = 1 → t.inq = s.inq ∧ t.sys = { s.sys with pending := true, command := 1 }) ∧
      (n.toNat = 2 → t.inq = s.inq ∧ t.sys = s.sys) ∧
      (n.toNat = 3 → t.inq = s.inq ∧ t.sys = { s.sys with shutdownRequested := true }) ∧
      (4 ≤ n.toNat → t.inq = s.inq ∧ t.sys = s.sys)

/-- spec/44_store_and_bitwise.md, the loop as a rotate: one turn, `k` turns as two shifts, and the bit-vector rotate. -/
def Obligations.RotateLoopIsARotateRight : Prop :=
  (∀ w : Nat, w < 65536 → rotateOnce w = (w >>> 1) + 32768 * (w % 2)) ∧
  (∀ (a : Word) (k : Nat), 1 ≤ k → k ≤ 15 →
    rotateLoop k a.toNat = ((a.toNat >>> k) ||| (a.toNat <<< (16 - k))) % 65536) ∧
  (∀ a b : Word, rotated a b = a.rotateRight (b.toNat % 16))

/-! Memory -/

/-- spec/20_memory.md section 1, with the canonical form of log 10: what a write does to every word, every byte, and the form. -/
def Obligations.MemoryReadAfterWrite : Prop :=
  ∀ (m : List Host.Cell) (n : Addr) (v : Word),
    Memory.read (Memory.write m n v) n = v ∧
    (∀ k, k ≠ n → Memory.read (Memory.write m n v) k = Memory.read m k) ∧
    (Memory.wf m → Memory.wf (Memory.write m n v) ∧ Memory.write m n (Memory.read m n) = m)

/-- spec/20_memory.md section 9: a word stored into the next cell is what the very next step fetches, whichever instruction
stored it; the storing instruction itself ran as fetched. -/
def Obligations.StoredWordIsSeenByTheNextFetch : Prop :=
  ∀ s : State, ∃ t, step s = .next t ∧
    (∀ n v, storeOf (fetch s) s = some (n, v) → Memory.read t.mem n = v ∧ (n = s.iar + 1 → fetch t = decodeWord v))

/-! Reset, and the legal states -/

/-- R43: after reset every cell is 0, and the boot sequence copies the image in from address 0. -/
def Obligations.MemoryAfterResetAndBoot : Prop :=
  (∀ n : Addr, Memory.read State.reset.mem n = 0) ∧
  ∀ (cfg : Config) (image : List Word) (pushes : List QueueEntry) (n : Addr),
    Memory.read (State.resetWith cfg).mem n = 0 ∧
    Memory.read (boot cfg image pushes).mem n = image.getD n.toNat 0

/-- spec/70_reset_and_hazards.md section 1. Every value is the spec's own decision, not the source's (logs 2, 5, 9): the model's choice. -/
def Obligations.StateAfterReset : Prop :=
  State.reset = State.resetWith Config.default ∧ Config.default.aluModeReset = .other ∧
  ∀ cfg : Config, ∀ s, s = State.resetWith cfg →
    s.a = 0 ∧ s.b = 0 ∧ s.c = 0 ∧ s.iar = 0 ∧ s.zero = false ∧ s.carry = false ∧ s.inputAvailable = false ∧
    s.aluMode = cfg.aluModeReset ∧ Represents s.inq [] ∧ s.inq.cursor = 0 ∧
    (∀ i, s.inq.slotAt i = { deviceId := 0, data := 0 }) ∧
    s.sys = { pending := false, command := 0, clockSpeed := cfg.clockSpeedReset, shutdownRequested := false } ∧
    s.trace.count = 0 ∧ s.trace.overflow = false ∧ s.drainTraceLog = [] ∧
    (∀ i, s.trace.slotAt i = { iar := 0, opcode := 0, field2 := 0, field3 := 0 }) ∧ s.cfg = cfg

/-- The legal states contain reset, whatever the configuration, and the default configuration's device ids are legal. -/
def Obligations.ResetIsLegal : Prop :=
  Inv State.reset ∧ (∀ cfg, Inv (State.resetWith cfg)) ∧ Config.default.wf = true

/-- Every step keeps the legal states. -/
def Obligations.StepKeepsLegalStates : Prop :=
  ∀ s t : State, Inv s → step s = .next t → Inv t

/-- The host's operations between steps keep the legal states, and so does every call the host may make. -/
def Obligations.HostOperationsKeepLegalStates : Prop :=
  (∀ s : State, Inv s → (∀ dev data, Inv (s.pushInput dev data)) ∧ (∀ image, Inv (s.load image))) ∧
  ∀ (call : HostCall) (h h' : Session), Inv h.machine → hostCall call h = .next h' → Inv h'.machine

/-! Rules of the whole machine -/

/-- spec/10_state.md sections 4 and 5: no step drives `inputAvailable` ("never driven by any defined operation") or writes the
configuration (log 1); so with the default wiring `JII` never jumps from a legal state. -/
def Obligations.NoStepDrivesInputAvailable : Prop :=
  ∀ s : State, ∃ t, step s = .next t ∧ t.inputAvailable = s.inputAvailable ∧ t.cfg = s.cfg ∧
    (Inv s → s.cfg.inputAvailableWiring = .neverDriven → ∀ n, fetch s = .jii n → Advances s t)

/-- spec/10_state.md sections 2 and 5: the writers of `A`, `B`, `C` and of the ALU mode, over all instructions. -/
def Obligations.OnlyTheListedInstructionsWriteRegisters : Prop :=
  ∀ s : State, ∃ t, step s = .next t ∧
    (loadsA (fetch s) = false → t.a = s.a) ∧
    (loadsB (fetch s) = false → t.b = s.b) ∧
    (writesC (fetch s) s.aluMode = false → t.c = s.c) ∧
    t.aluMode = modeAfter (fetch s) s.aluMode

/-- spec/10_state.md section 4: the writers of `zero` and `carry`, over all instructions. -/
def Obligations.OnlyTheListedInstructionsWriteFlags : Prop :=
  ∀ s : State, ∃ t, step s = .next t ∧
    (runsAlu (fetch s) = false → t.zero = s.zero) ∧
    (writesCarry (fetch s) s.aluMode = false → t.carry = s.carry)

/-- spec/20_memory.md section 4: the writers of memory, over all instructions: one word at the operand's address, or nothing. -/
def Obligations.OnlyStoresWriteMemory : Prop :=
  ∀ s : State, ∃ t, step s = .next t ∧
    (storeOf (fetch s) s = none → KeepsMemory s t) ∧
    ∀ n v, storeOf (fetch s) s = some (n, v) → n = (fetch s).operand ∧ Memory.read t.mem n = v ∧ KeepsMemoryBut n s t

/-- spec/46_io.md sections 1 and 4: the queue changes only by `GIN` and `SOT`, the system device only by an `SOT` with `A = 1`; so a
staged command stays staged until then. That the shutdown latch stays set is the spec's own decision D11 (log 17). -/
def Obligations.OnlyOutputsReachTheSystemDevice : Prop :=
  ∀ s : State, ∃ t, step s = .next t ∧
    (touchesQueue (fetch s) = false → t.inq = s.inq) ∧
    (outputsToSystem (fetch s) s = false → t.sys = s.sys) ∧
    (s.sys.shutdownRequested = true → t.sys.shutdownRequested = true)

/-- spec/40_step_cycle.md section 2 and spec/46_io.md section 5: "No rule of the core reads the trace log", and a shutdown request does
not stop or change the core (decision D11, log 17): states that differ only there stay so, whatever log 7's free value is. -/
def Obligations.TraceAndShutdownLatchAreInvisible : Prop :=
  ∀ (k : Nat) (s s' : State), SameForPrograms s s' →
    ∃ t t', runSteps k s = .next t ∧ runSteps k s' = .next t' ∧ SameForPrograms t t'

/-- spec/45_jumps.md, `JMP`, corner case (a): a jump to itself repeats for ever and changes nothing but the trace log. -/
def Obligations.JumpToItselfChangesOnlyTheTrace : Prop :=
  ∀ (k : Nat) (s : State), fetch s = .jmp s.iar →
    ∃ t, runSteps k s = .next t ∧ { t with trace := s.trace } = s

/-! The input queue -/

/-- spec/46_io.md section 1: with at most 4096 entries outstanding the queue is a stack. That a pop from the empty queue leaves it as
it is, the cursor too, is the spec's own decision D23 (log 19). -/
def Obligations.InputQueueIsAStack : Prop :=
  Represents InputQueue.reset [] ∧
  (∀ (q : InputQueue) (stack : List Word) (dev data : Word), Represents q stack → stack.length < 4096 →
    Represents (q.push dev data) (data :: stack)) ∧
  (∀ (q : InputQueue) (data : Word) (stack : List Word), Represents q (data :: stack) →
    q.popValue = data ∧ Represents q.pop stack) ∧
  (∀ q : InputQueue, Represents q [] → q.popValue = 0 ∧ q.pop = q)

/-- spec/46_io.md section 1, order of delivery: after pushes to an empty queue, pops return the latest 4096 data words, newest first;
with `4096 + m` pushes the `m` newest again; then zeros. The unclamped count is the spec's own decision D8 (log 13). -/
def Obligations.OverfullQueueRepeatsTheNewest : Prop :=
  ∀ (q : InputQueue) (entries : List QueueEntry), q.count = 0 →
    (entries.length ≤ 4096 → ∀ j,
      pops (entries.length + j) (pushAll q entries) =
        (entries.map QueueEntry.data).reverse ++ List.replicate j 0) ∧
    (∀ m, 1 ≤ m → m ≤ 4096 → entries.length = 4096 + m → ∀ j,
      pops (4096 + m + j) (pushAll q entries) =
        (entries.map QueueEntry.data).reverse.take 4096 ++ (entries.map QueueEntry.data).reverse.take m ++
          List.replicate j 0)

/-- spec/46_io.md section 5: the query's answer is popped at once by `GIN`; the queue is then as it was, as a stack of fewer than 4096
entries, and in every slot but the one the answer used. -/
def Obligations.QueryThenGinDeliversTheClockSpeed : Prop :=
  ∀ (n : Addr) (s : State), s.a = 1 → s.sys.pending = false →
    ∃ t u, exec (.sot 0) s = .next t ∧ exec (.gin n) t = .next u ∧
      Memory.read u.mem n = s.sys.clockSpeed ∧
      u.inq.count = s.inq.count ∧ u.inq.cursor = s.inq.cursor ∧
      (∀ i, i ≠ (s.inq.cursor + 1).toNat → u.inq.slotAt i = s.inq.slotAt i) ∧
      (∀ stack, stack.length < 4096 → Represents s.inq stack → Represents u.inq stack)

/-! The host's entry points -/

/-- spec/47_host_entry_points.md section 1, `load`: cells 0 to `min(L, 4096) - 1` take the words; every other cell and everything else
stays. The excess dropped is the spec's own decision D15 (log 16). -/
def Obligations.LoadPlacesTheImageFromAddressZero : Prop :=
  ∀ (s : State) (image : List Word),
    (∀ (n : Addr), (h : n.toNat < image.length) → Memory.read (s.load image).mem n = image[n.toNat]) ∧
    (∀ (n : Addr), image.length ≤ n.toNat → Memory.read (s.load image).mem n = Memory.read s.mem n) ∧
    { s.load image with mem := s.mem } = s

/-- R65: byte pair `k` becomes the word `byte[2k] * 256 + byte[2k+1]` at address `k`, and the opcode is in the high nibble of the
first byte of the pair. -/
def Obligations.ImageBytesAreBigEndian : Prop :=
  ∀ (s : State) (bytes : List Byte) (k : Addr) (h : 2 * k.toNat + 1 < bytes.length),
    (Memory.read (s.load (wordsOfBytes bytes)).mem k).toNat =
      bytes[2 * k.toNat].toNat * 256 + bytes[2 * k.toNat + 1].toNat ∧
    (decodeWord (Memory.read (s.load (wordsOfBytes bytes)).mem k)).opcode.toNat = bytes[2 * k.toNat].toNat / 16

/-- spec/47_host_entry_points.md section 1: `pushInput` performs `InqPush` and nothing else, whatever the fill of the queue. That the
count has no bound and grows at any fill is the spec's own decision D8 (log 13). -/
def Obligations.PushInputPushesAndNothingElse : Prop :=
  ∀ (s : State) (dev data : Word),
    (s.pushInput dev data).inq.cursor.toNat = (s.inq.cursor.toNat + 1) % 4096 ∧
    (s.pushInput dev data).inq.count = s.inq.count + 1 ∧
    (s.pushInput dev data).inq.slotAt ((s.inq.cursor.toNat + 1) % 4096) = { deviceId := dev, data := data } ∧
    (∀ i, i ≠ (s.inq.cursor.toNat + 1) % 4096 → (s.pushInput dev data).inq.slotAt i = s.inq.slotAt i) ∧
    { s.pushInput dev data with inq := s.inq } = s

/-- spec/47_host_entry_points.md sections 1 and 2: `load` is admitted directly after reset, and refused by name after any call that
was answered, a first `load` of whatever image among them; `step` and `pushInput` are always answered. The refusal is the model's
choice (log 16), from the spec's own decision D15. -/
def Obligations.LoadIsRefusedAfterAnyCall : Prop :=
  (∀ (cfg : Config) (image : List Word),
    hostCall (.load image) (.booting cfg) = .next (.launched ((State.resetWith cfg).load image))) ∧
  (∀ (call : HostCall) (h h' : Session) (image : List Word),
    hostCall call h = .next h' → hostCall (.load image) h' = .refused .loadOutsideBoot) ∧
  (∀ (op : HostOp) (h : Session), ∃ t, hostOp op h.machine = .next t ∧ hostCall (.op op) h = .next (.launched t))

/-- spec/47_host_entry_points.md section 2: a run ends after the first step that leaves `RUN_END` true, for every `RUN_END` (log 8). -/
def Obligations.RunEndsAfterTheFirstStepThatMeetsRunEnd : Prop :=
  ∀ (runEnd : State → Bool) (fuel : Nat) (s : State), ∃ k t, k ≤ fuel ∧
    runUntil runEnd fuel s = .next t ∧ runSteps k s = .next t ∧
    (k = fuel ∨ (0 < k ∧ runEnd t = true)) ∧
    ∀ j u, 0 < j → j < k → runSteps j s = .next u → runEnd u = false

/-- spec/47_host_entry_points.md section 2: every infinite schedule of steps and pushes has its execution, one state after each
operation, and the finite execution of its first operations is the beginning of it. -/
def Obligations.EveryScheduleHasItsExecution : Prop :=
  ∀ (schedule : Nat → HostOp) (s : State), ∃ states : Nat → State, states 0 = s ∧
    ∀ n, runFirst schedule n s = .next (states n) ∧
      hostOp (schedule n) (states n) = .next (states (n + 1))

/-- spec/47_host_entry_points.md section 2: a run with pushes between its steps ends after the first step, of the schedule's
operations, that leaves `RUN_END` true, for every `RUN_END` (log 8); no push ends it. -/
def Obligations.ScheduledRunEndsAfterTheFirstStepThatMeetsRunEnd : Prop :=
  ∀ (runEnd : State → Bool) (ops : List HostOp) (s : State), ∃ k t, k ≤ ops.length ∧
    runScheduleUntil runEnd ops s = .next t ∧ runSchedule (ops.take k) s = .next t ∧
    (k = ops.length ∨ ∃ j, k = j + 1 ∧ ops[j]? = some .step ∧ runEnd t = true) ∧
    ∀ j u, j + 1 < k → ops[j]? = some .step → runSchedule (ops.take (j + 1)) s = .next u → runEnd u = false
end

