-- ==== Sys2Proof/Laws/Alu.lean ====
section
/-! SUPPORT. The ALU's result in each mode as a number, and the rotate's loop. -/

namespace Sys2Proof.Machine

@[simp] theorem aluResult_add_toNat (a b c : Word) :
    (aluResult .add a b c).toNat = (a.toNat + b.toNat) % 65536 := by
  simp [aluResult]

theorem aluResult_subtract_toNat (a b c : Word) :
    ((aluResult .subtract a b c).toNat : Int) = ((a.toNat : Int) - b.toNat) % 65536 := by
  simp only [aluResult, BitVec.toNat_ofInt]
  omega

@[simp] theorem aluResult_other (a b c : Word) : aluResult .other a b c = c := rfl

@[simp] theorem aluCarry_add (a b : Word) (k : Bool) : aluCarry .add a b k = decide (65536 ≤ a.toNat + b.toNat) := rfl

@[simp] theorem aluCarry_subtract (a b : Word) (k : Bool) : aluCarry .subtract a b k = decide (a.toNat < b.toNat) := rfl

@[simp] theorem aluCarry_other (a b : Word) (k : Bool) : aluCarry .other a b k = k := rfl

/-- In mode `Add` the result is the bit-vector sum. -/
theorem aluResult_add_eq (a b c : Word) : aluResult .add a b c = a + b :=
  BitVec.eq_of_toNat_eq (by simp)

/-- In mode `Subtract` the result is the bit-vector difference. -/
theorem aluResult_subtract_eq (a b c : Word) : aluResult .subtract a b c = a - b := by
  apply BitVec.eq_of_toNat_eq
  have h := aluResult_subtract_toNat a b c
  have := a.isLt
  have := b.isLt
  rw [BitVec.toNat_sub]
  omega

/-- One turn of the loop keeps a word a word. -/
theorem rotateOnce_lt {w : Nat} (h : w < 65536) : rotateOnce w < 65536 := by
  unfold rotateOnce
  split <;> omega

theorem rotateLoop_lt (k : Nat) {w : Nat} (h : w < 65536) : rotateLoop k w < 65536 := by
  induction k generalizing w with
  | zero => exact h
  | succ k ih => exact ih (rotateOnce_lt h)

/-- The rotated word, as a number, is the loop's working value. -/
theorem rotated_toNat (a b : Word) : (rotated a b).toNat = rotateLoop (b.toNat % 16) a.toNat := by
  have := rotateLoop_lt (b.toNat % 16) a.isLt
  simp only [rotated, BitVec.toNat_ofNat]
  exact Nat.mod_eq_of_lt this

end Sys2Proof.Machine
end

