-- ==== Sys2Proof/Laws/Decode.lean ====
section
/-! SUPPORT. The fields of a word and its bytes, taken apart and put together. -/

namespace Sys2Proof

theorem opcodeOf_toNat (w : Word) : (opcodeOf w).toNat = w.toNat / 4096 := by
  have := w.isLt
  simp [opcodeOf, Nat.shiftRight_eq_div_pow]
  omega

theorem operandOf_toNat (w : Word) : (operandOf w).toNat = w.toNat % 4096 := by
  simp [operandOf]

theorem highByte_toNat (w : Word) : (highByte w).toNat = w.toNat / 256 := by
  have := w.isLt
  simp [highByte, Nat.shiftRight_eq_div_pow]
  omega

theorem lowByte_toNat (w : Word) : (lowByte w).toNat = w.toNat % 256 := by
  simp [lowByte]

/-- "The word `w` of an instruction with opcode `p` and operand `n` is `w = p * 4096 + n`" (spec/30_encoding.md R90). -/
theorem fields_toNat (p : OpcodeBits) (n : Addr) : (p ++ n : BitVec (4 + 12)).toNat = p.toNat * 4096 + n.toNat := by
  rw [BitVec.toNat_append, Nat.shiftLeft_eq, Nat.mul_comm, ← Nat.two_pow_add_eq_or_of_lt n.isLt]

/-- "value = `highByte*256 + lowByte`" (spec/20_memory.md R65). -/
theorem wordOfBytes_toNat (hi lo : Byte) : (wordOfBytes hi lo).toNat = hi.toNat * 256 + lo.toNat := by
  show (hi ++ lo : BitVec (8 + 8)).toNat = _
  rw [BitVec.toNat_append, Nat.shiftLeft_eq, Nat.mul_comm, ← Nat.two_pow_add_eq_or_of_lt lo.isLt]

/-- A word is its two fields put together. -/
theorem word_fields (w : Word) : (opcodeOf w ++ operandOf w : BitVec (4 + 12)) = w := by
  apply BitVec.eq_of_toNat_eq
  rw [fields_toNat, opcodeOf_toNat, operandOf_toNat]
  omega

@[simp] theorem opcodeOf_append (p : OpcodeBits) (n : Addr) : opcodeOf (p ++ n : BitVec (4 + 12)) = p := by
  apply BitVec.eq_of_toNat_eq
  have := n.isLt
  rw [opcodeOf_toNat, fields_toNat]
  omega

@[simp] theorem operandOf_append (p : OpcodeBits) (n : Addr) : operandOf (p ++ n : BitVec (4 + 12)) = n := by
  apply BitVec.eq_of_toNat_eq
  have := n.isLt
  rw [operandOf_toNat, fields_toNat]
  omega

@[simp] theorem opcodeOf_encodeWord (i : Instr) : opcodeOf (encodeWord i) = i.opcode := opcodeOf_append _ _

@[simp] theorem operandOf_encodeWord (i : Instr) : operandOf (encodeWord i) = i.operand := operandOf_append _ _

@[simp] theorem wordOfBytes_bytes (w : Word) : wordOfBytes (highByte w) (lowByte w) = w := by
  apply BitVec.eq_of_toNat_eq
  rw [wordOfBytes_toNat, highByte_toNat, lowByte_toNat]
  omega

@[simp] theorem highByte_wordOfBytes (hi lo : Byte) : highByte (wordOfBytes hi lo) = hi := by
  apply BitVec.eq_of_toNat_eq
  have := lo.isLt
  rw [highByte_toNat, wordOfBytes_toNat]
  omega

@[simp] theorem lowByte_wordOfBytes (hi lo : Byte) : lowByte (wordOfBytes hi lo) = lo := by
  apply BitVec.eq_of_toNat_eq
  have := lo.isLt
  rw [lowByte_toNat, wordOfBytes_toNat]
  omega

/-- The opcode of a decoded word is its opcode field. -/
@[simp] theorem opcode_decodeWord (w : Word) : (decodeWord w).opcode = opcodeOf w := by
  unfold decodeWord
  generalize opcodeOf w = p
  obtain ⟨⟨v, hv⟩⟩ := p
  interval_cases v <;> rfl

/-- The operand of a decoded word is its operand field. -/
@[simp] theorem operand_decodeWord (w : Word) : (decodeWord w).operand = operandOf w := by
  unfold decodeWord
  split <;> rfl

end Sys2Proof
end

