-- ==== Sys2Proof/Laws/State.lean ====
section
/-! SUPPORT. What each named update of a state does to each field: one lemma per field per update. -/

namespace Sys2Proof.Machine

variable (s : State)

@[simp] theorem State.writeWord_mem (n : Addr) (v : Word) : (s.writeWord n v).mem = Memory.write s.mem n v := rfl
@[simp] theorem State.writeWord_a (n : Addr) (v : Word) : (s.writeWord n v).a = s.a := rfl
@[simp] theorem State.writeWord_b (n : Addr) (v : Word) : (s.writeWord n v).b = s.b := rfl
@[simp] theorem State.writeWord_c (n : Addr) (v : Word) : (s.writeWord n v).c = s.c := rfl
@[simp] theorem State.writeWord_iar (n : Addr) (v : Word) : (s.writeWord n v).iar = s.iar := rfl
@[simp] theorem State.writeWord_zero (n : Addr) (v : Word) : (s.writeWord n v).zero = s.zero := rfl
@[simp] theorem State.writeWord_carry (n : Addr) (v : Word) : (s.writeWord n v).carry = s.carry := rfl
@[simp] theorem State.writeWord_inputAvailable (n : Addr) (v : Word) : (s.writeWord n v).inputAvailable = s.inputAvailable := rfl
@[simp] theorem State.writeWord_aluMode (n : Addr) (v : Word) : (s.writeWord n v).aluMode = s.aluMode := rfl
@[simp] theorem State.writeWord_inq (n : Addr) (v : Word) : (s.writeWord n v).inq = s.inq := rfl
@[simp] theorem State.writeWord_sys (n : Addr) (v : Word) : (s.writeWord n v).sys = s.sys := rfl
@[simp] theorem State.writeWord_trace (n : Addr) (v : Word) : (s.writeWord n v).trace = s.trace := rfl
@[simp] theorem State.writeWord_cfg (n : Addr) (v : Word) : (s.writeWord n v).cfg = s.cfg := rfl

@[simp] theorem State.setA_mem (v : Word) : (s.setA v).mem = s.mem := rfl
@[simp] theorem State.setA_a (v : Word) : (s.setA v).a = v := rfl
@[simp] theorem State.setA_b (v : Word) : (s.setA v).b = s.b := rfl
@[simp] theorem State.setA_c (v : Word) : (s.setA v).c = s.c := rfl
@[simp] theorem State.setA_iar (v : Word) : (s.setA v).iar = s.iar := rfl
@[simp] theorem State.setA_zero (v : Word) : (s.setA v).zero = s.zero := rfl
@[simp] theorem State.setA_carry (v : Word) : (s.setA v).carry = s.carry := rfl
@[simp] theorem State.setA_inputAvailable (v : Word) : (s.setA v).inputAvailable = s.inputAvailable := rfl
@[simp] theorem State.setA_aluMode (v : Word) : (s.setA v).aluMode = s.aluMode := rfl
@[simp] theorem State.setA_inq (v : Word) : (s.setA v).inq = s.inq := rfl
@[simp] theorem State.setA_sys (v : Word) : (s.setA v).sys = s.sys := rfl
@[simp] theorem State.setA_trace (v : Word) : (s.setA v).trace = s.trace := rfl
@[simp] theorem State.setA_cfg (v : Word) : (s.setA v).cfg = s.cfg := rfl

@[simp] theorem State.setB_mem (v : Word) : (s.setB v).mem = s.mem := rfl
@[simp] theorem State.setB_a (v : Word) : (s.setB v).a = s.a := rfl
@[simp] theorem State.setB_b (v : Word) : (s.setB v).b = v := rfl
@[simp] theorem State.setB_c (v : Word) : (s.setB v).c = s.c := rfl
@[simp] theorem State.setB_iar (v : Word) : (s.setB v).iar = s.iar := rfl
@[simp] theorem State.setB_zero (v : Word) : (s.setB v).zero = s.zero := rfl
@[simp] theorem State.setB_carry (v : Word) : (s.setB v).carry = s.carry := rfl
@[simp] theorem State.setB_inputAvailable (v : Word) : (s.setB v).inputAvailable = s.inputAvailable := rfl
@[simp] theorem State.setB_aluMode (v : Word) : (s.setB v).aluMode = s.aluMode := rfl
@[simp] theorem State.setB_inq (v : Word) : (s.setB v).inq = s.inq := rfl
@[simp] theorem State.setB_sys (v : Word) : (s.setB v).sys = s.sys := rfl
@[simp] theorem State.setB_trace (v : Word) : (s.setB v).trace = s.trace := rfl
@[simp] theorem State.setB_cfg (v : Word) : (s.setB v).cfg = s.cfg := rfl

@[simp] theorem State.setC_mem (v : Word) : (s.setC v).mem = s.mem := rfl
@[simp] theorem State.setC_a (v : Word) : (s.setC v).a = s.a := rfl
@[simp] theorem State.setC_b (v : Word) : (s.setC v).b = s.b := rfl
@[simp] theorem State.setC_c (v : Word) : (s.setC v).c = v := rfl
@[simp] theorem State.setC_iar (v : Word) : (s.setC v).iar = s.iar := rfl
@[simp] theorem State.setC_zero (v : Word) : (s.setC v).zero = s.zero := rfl
@[simp] theorem State.setC_carry (v : Word) : (s.setC v).carry = s.carry := rfl
@[simp] theorem State.setC_inputAvailable (v : Word) : (s.setC v).inputAvailable = s.inputAvailable := rfl
@[simp] theorem State.setC_aluMode (v : Word) : (s.setC v).aluMode = s.aluMode := rfl
@[simp] theorem State.setC_inq (v : Word) : (s.setC v).inq = s.inq := rfl
@[simp] theorem State.setC_sys (v : Word) : (s.setC v).sys = s.sys := rfl
@[simp] theorem State.setC_trace (v : Word) : (s.setC v).trace = s.trace := rfl
@[simp] theorem State.setC_cfg (v : Word) : (s.setC v).cfg = s.cfg := rfl

@[simp] theorem State.setMode_mem (m : AluMode) : (s.setMode m).mem = s.mem := rfl
@[simp] theorem State.setMode_a (m : AluMode) : (s.setMode m).a = s.a := rfl
@[simp] theorem State.setMode_b (m : AluMode) : (s.setMode m).b = s.b := rfl
@[simp] theorem State.setMode_c (m : AluMode) : (s.setMode m).c = s.c := rfl
@[simp] theorem State.setMode_iar (m : AluMode) : (s.setMode m).iar = s.iar := rfl
@[simp] theorem State.setMode_zero (m : AluMode) : (s.setMode m).zero = s.zero := rfl
@[simp] theorem State.setMode_carry (m : AluMode) : (s.setMode m).carry = s.carry := rfl
@[simp] theorem State.setMode_inputAvailable (m : AluMode) : (s.setMode m).inputAvailable = s.inputAvailable := rfl
@[simp] theorem State.setMode_aluMode (m : AluMode) : (s.setMode m).aluMode = m := rfl
@[simp] theorem State.setMode_inq (m : AluMode) : (s.setMode m).inq = s.inq := rfl
@[simp] theorem State.setMode_sys (m : AluMode) : (s.setMode m).sys = s.sys := rfl
@[simp] theorem State.setMode_trace (m : AluMode) : (s.setMode m).trace = s.trace := rfl
@[simp] theorem State.setMode_cfg (m : AluMode) : (s.setMode m).cfg = s.cfg := rfl

@[simp] theorem State.setInq_mem (q : InputQueue) : (s.setInq q).mem = s.mem := rfl
@[simp] theorem State.setInq_a (q : InputQueue) : (s.setInq q).a = s.a := rfl
@[simp] theorem State.setInq_b (q : InputQueue) : (s.setInq q).b = s.b := rfl
@[simp] theorem State.setInq_c (q : InputQueue) : (s.setInq q).c = s.c := rfl
@[simp] theorem State.setInq_iar (q : InputQueue) : (s.setInq q).iar = s.iar := rfl
@[simp] theorem State.setInq_zero (q : InputQueue) : (s.setInq q).zero = s.zero := rfl
@[simp] theorem State.setInq_carry (q : InputQueue) : (s.setInq q).carry = s.carry := rfl
@[simp] theorem State.setInq_inputAvailable (q : InputQueue) : (s.setInq q).inputAvailable = s.inputAvailable := rfl
@[simp] theorem State.setInq_aluMode (q : InputQueue) : (s.setInq q).aluMode = s.aluMode := rfl
@[simp] theorem State.setInq_inq (q : InputQueue) : (s.setInq q).inq = q := rfl
@[simp] theorem State.setInq_sys (q : InputQueue) : (s.setInq q).sys = s.sys := rfl
@[simp] theorem State.setInq_trace (q : InputQueue) : (s.setInq q).trace = s.trace := rfl
@[simp] theorem State.setInq_cfg (q : InputQueue) : (s.setInq q).cfg = s.cfg := rfl

@[simp] theorem State.setSys_mem (d : SystemDevice) : (s.setSys d).mem = s.mem := rfl
@[simp] theorem State.setSys_a (d : SystemDevice) : (s.setSys d).a = s.a := rfl
@[simp] theorem State.setSys_b (d : SystemDevice) : (s.setSys d).b = s.b := rfl
@[simp] theorem State.setSys_c (d : SystemDevice) : (s.setSys d).c = s.c := rfl
@[simp] theorem State.setSys_iar (d : SystemDevice) : (s.setSys d).iar = s.iar := rfl
@[simp] theorem State.setSys_zero (d : SystemDevice) : (s.setSys d).zero = s.zero := rfl
@[simp] theorem State.setSys_carry (d : SystemDevice) : (s.setSys d).carry = s.carry := rfl
@[simp] theorem State.setSys_inputAvailable (d : SystemDevice) : (s.setSys d).inputAvailable = s.inputAvailable := rfl
@[simp] theorem State.setSys_aluMode (d : SystemDevice) : (s.setSys d).aluMode = s.aluMode := rfl
@[simp] theorem State.setSys_inq (d : SystemDevice) : (s.setSys d).inq = s.inq := rfl
@[simp] theorem State.setSys_sys (d : SystemDevice) : (s.setSys d).sys = d := rfl
@[simp] theorem State.setSys_trace (d : SystemDevice) : (s.setSys d).trace = s.trace := rfl
@[simp] theorem State.setSys_cfg (d : SystemDevice) : (s.setSys d).cfg = s.cfg := rfl

@[simp] theorem State.setTrace_mem (l : TraceLog) : (s.setTrace l).mem = s.mem := rfl
@[simp] theorem State.setTrace_a (l : TraceLog) : (s.setTrace l).a = s.a := rfl
@[simp] theorem State.setTrace_b (l : TraceLog) : (s.setTrace l).b = s.b := rfl
@[simp] theorem State.setTrace_c (l : TraceLog) : (s.setTrace l).c = s.c := rfl
@[simp] theorem State.setTrace_iar (l : TraceLog) : (s.setTrace l).iar = s.iar := rfl
@[simp] theorem State.setTrace_zero (l : TraceLog) : (s.setTrace l).zero = s.zero := rfl
@[simp] theorem State.setTrace_carry (l : TraceLog) : (s.setTrace l).carry = s.carry := rfl
@[simp] theorem State.setTrace_inputAvailable (l : TraceLog) : (s.setTrace l).inputAvailable = s.inputAvailable := rfl
@[simp] theorem State.setTrace_aluMode (l : TraceLog) : (s.setTrace l).aluMode = s.aluMode := rfl
@[simp] theorem State.setTrace_inq (l : TraceLog) : (s.setTrace l).inq = s.inq := rfl
@[simp] theorem State.setTrace_sys (l : TraceLog) : (s.setTrace l).sys = s.sys := rfl
@[simp] theorem State.setTrace_trace (l : TraceLog) : (s.setTrace l).trace = l := rfl
@[simp] theorem State.setTrace_cfg (l : TraceLog) : (s.setTrace l).cfg = s.cfg := rfl

@[simp] theorem State.advance_mem : (s.advance).mem = s.mem := rfl
@[simp] theorem State.advance_a : (s.advance).a = s.a := rfl
@[simp] theorem State.advance_b : (s.advance).b = s.b := rfl
@[simp] theorem State.advance_c : (s.advance).c = s.c := rfl
@[simp] theorem State.advance_iar : (s.advance).iar = s.iar + 1 := rfl
@[simp] theorem State.advance_zero : (s.advance).zero = s.zero := rfl
@[simp] theorem State.advance_carry : (s.advance).carry = s.carry := rfl
@[simp] theorem State.advance_inputAvailable : (s.advance).inputAvailable = s.inputAvailable := rfl
@[simp] theorem State.advance_aluMode : (s.advance).aluMode = s.aluMode := rfl
@[simp] theorem State.advance_inq : (s.advance).inq = s.inq := rfl
@[simp] theorem State.advance_sys : (s.advance).sys = s.sys := rfl
@[simp] theorem State.advance_trace : (s.advance).trace = s.trace := rfl
@[simp] theorem State.advance_cfg : (s.advance).cfg = s.cfg := rfl

@[simp] theorem State.jumpIf_mem (cond : Bool) (n : Addr) : (s.jumpIf cond n).mem = s.mem := rfl
@[simp] theorem State.jumpIf_a (cond : Bool) (n : Addr) : (s.jumpIf cond n).a = s.a := rfl
@[simp] theorem State.jumpIf_b (cond : Bool) (n : Addr) : (s.jumpIf cond n).b = s.b := rfl
@[simp] theorem State.jumpIf_c (cond : Bool) (n : Addr) : (s.jumpIf cond n).c = s.c := rfl
@[simp] theorem State.jumpIf_iar (cond : Bool) (n : Addr) : (s.jumpIf cond n).iar = if cond then n else s.iar + 1 := rfl
@[simp] theorem State.jumpIf_zero (cond : Bool) (n : Addr) : (s.jumpIf cond n).zero = s.zero := rfl
@[simp] theorem State.jumpIf_carry (cond : Bool) (n : Addr) : (s.jumpIf cond n).carry = s.carry := rfl
@[simp] theorem State.jumpIf_inputAvailable (cond : Bool) (n : Addr) : (s.jumpIf cond n).inputAvailable = s.inputAvailable := rfl
@[simp] theorem State.jumpIf_aluMode (cond : Bool) (n : Addr) : (s.jumpIf cond n).aluMode = s.aluMode := rfl
@[simp] theorem State.jumpIf_inq (cond : Bool) (n : Addr) : (s.jumpIf cond n).inq = s.inq := rfl
@[simp] theorem State.jumpIf_sys (cond : Bool) (n : Addr) : (s.jumpIf cond n).sys = s.sys := rfl
@[simp] theorem State.jumpIf_trace (cond : Bool) (n : Addr) : (s.jumpIf cond n).trace = s.trace := rfl
@[simp] theorem State.jumpIf_cfg (cond : Bool) (n : Addr) : (s.jumpIf cond n).cfg = s.cfg := rfl

@[simp] theorem State.runAlu_mem : (s.runAlu).mem = s.mem := rfl
@[simp] theorem State.runAlu_a : (s.runAlu).a = s.a := rfl
@[simp] theorem State.runAlu_b : (s.runAlu).b = s.b := rfl
@[simp] theorem State.runAlu_c : (s.runAlu).c = aluResult s.aluMode s.a s.b s.c := rfl
@[simp] theorem State.runAlu_iar : (s.runAlu).iar = s.iar := rfl
@[simp] theorem State.runAlu_zero : (s.runAlu).zero = (aluResult s.aluMode s.a s.b s.c == 0#16) := rfl
@[simp] theorem State.runAlu_carry : (s.runAlu).carry = aluCarry s.aluMode s.a s.b s.carry := rfl
@[simp] theorem State.runAlu_inputAvailable : (s.runAlu).inputAvailable = s.inputAvailable := rfl
@[simp] theorem State.runAlu_aluMode : (s.runAlu).aluMode = s.aluMode := rfl
@[simp] theorem State.runAlu_inq : (s.runAlu).inq = s.inq := rfl
@[simp] theorem State.runAlu_sys : (s.runAlu).sys = s.sys := rfl
@[simp] theorem State.runAlu_trace : (s.runAlu).trace = s.trace := rfl
@[simp] theorem State.runAlu_cfg : (s.runAlu).cfg = s.cfg := rfl

@[simp] theorem State.readWord_eq (n : Addr) : s.readWord n = Memory.read s.mem n := rfl

@[simp] theorem memoryOperand_eq (n : Addr) : memoryOperand s n = Memory.read s.mem n := rfl

@[simp] theorem fetch_eq : fetch s = decodeWord (Memory.read s.mem s.iar) := rfl

@[simp] theorem logStep_eq (i : Instr) (t : State) : logStep i s t = t.setTrace (t.trace.append (stepEntry i s t)) := rfl

end Sys2Proof.Machine
end

