-- ==== Sys2Proof/Laws/Sparse.lean ====
section
/-! SUPPORT. Reading a sparse array after a write, and the canonical form: every write keeps it, and two arrays in it that
read alike are the same list. -/

namespace Sys2Proof.Machine

variable {α : Type}

@[simp] theorem Sparse.get_nil (d : α) (i : Nat) : Sparse.get d [] i = d := rfl

theorem Sparse.get_cons (d : α) (k : Nat) (v : α) (m : List (Nat × α)) (i : Nat) :
    Sparse.get d ((k, v) :: m) i = if k = i then v else Sparse.get d m i := rfl

theorem Sparse.get_erase (d : α) (m : List (Nat × α)) (i j : Nat) :
    Sparse.get d (Sparse.erase m i) j = if j = i then d else Sparse.get d m j := by
  induction m with
  | nil => simp [Sparse.erase]
  | cons e m ih =>
    obtain ⟨k, w⟩ := e
    by_cases hk : k = i
    · subst hk
      have : Sparse.erase ((k, w) :: m) k = Sparse.erase m k := by simp [Sparse.erase]
      rw [this, ih, Sparse.get_cons]
      by_cases hj : j = k
      · simp [hj]
      · rw [if_neg hj, if_neg hj, if_neg (Ne.symm hj)]
    · have : Sparse.erase ((k, w) :: m) i = (k, w) :: Sparse.erase m i := by simp [Sparse.erase, hk]
      rw [this, Sparse.get_cons, ih, Sparse.get_cons]
      split <;> simp_all

theorem Sparse.get_insert (d : α) (m : List (Nat × α)) (i : Nat) (v : α) (j : Nat)
    (h : ∀ e ∈ m, e.1 ≠ i) :
    Sparse.get d (Sparse.insert m i v) j = if j = i then v else Sparse.get d m j := by
  induction m with
  | nil => simp [Sparse.insert, Sparse.get_cons, eq_comm]
  | cons e m ih =>
    obtain ⟨k, w⟩ := e
    have hk : k ≠ i := h (k, w) (by simp)
    have ih' := ih (fun e he => h e (by simp [he]))
    simp only [Sparse.insert]
    split
    · simp [Sparse.get_cons, eq_comm]
    · rw [Sparse.get_cons, ih', Sparse.get_cons]
      split <;> simp_all

theorem Sparse.mem_erase {m : List (Nat × α)} {i : Nat} {e : Nat × α} :
    e ∈ Sparse.erase m i ↔ e ∈ m ∧ e.1 ≠ i := by
  simp [Sparse.erase]

theorem Sparse.mem_insert {m : List (Nat × α)} {i : Nat} {v : α} {e : Nat × α} :
    e ∈ Sparse.insert m i v ↔ e = (i, v) ∨ e ∈ m := by
  induction m with
  | nil => simp [Sparse.insert]
  | cons x m ih =>
    obtain ⟨k, w⟩ := x
    simp only [Sparse.insert]
    split
    · simp
    · simp only [List.mem_cons, ih]
      tauto

/-- Read after write, in any array: the place written reads as the value, every other place as before. -/
theorem Sparse.get_put [DecidableEq α] (d : α) (m : List (Nat × α)) (i : Nat) (v : α) (j : Nat) :
    Sparse.get d (Sparse.put d m i v) j = if j = i then v else Sparse.get d m j := by
  unfold Sparse.put
  split
  · next h => simp [Sparse.get_erase, h]
  · rw [Sparse.get_insert _ _ _ _ _ (fun e he => (Sparse.mem_erase.mp he).2), Sparse.get_erase]
    split <;> simp_all

@[simp] theorem Sparse.get_put_same [DecidableEq α] (d : α) (m : List (Nat × α)) (i : Nat) (v : α) :
    Sparse.get d (Sparse.put d m i v) i = v := by
  simp [Sparse.get_put]

theorem Sparse.get_put_other [DecidableEq α] (d : α) (m : List (Nat × α)) {i j : Nat} (v : α) (h : j ≠ i) :
    Sparse.get d (Sparse.put d m i v) j = Sparse.get d m j := by
  simp [Sparse.get_put, h]

theorem Sparse.wf_erase {d : α} {size : Nat} {m : List (Nat × α)} (h : Sparse.wf d size m) (i : Nat) :
    Sparse.wf d size (Sparse.erase m i) :=
  ⟨h.1.filter _, fun e he => h.2 e (Sparse.mem_erase.mp he).1⟩

theorem Sparse.pairwise_insert {m : List (Nat × α)} {i : Nat} {v : α}
    (h : m.Pairwise (fun x y => x.1 < y.1)) (hi : ∀ e ∈ m, e.1 ≠ i) :
    (Sparse.insert m i v).Pairwise (fun x y => x.1 < y.1) := by
  induction m with
  | nil => simp [Sparse.insert]
  | cons e m ih =>
    obtain ⟨k, w⟩ := e
    have hk : k ≠ i := hi (k, w) (by simp)
    obtain ⟨h1, h2⟩ := List.pairwise_cons.mp h
    simp only [Sparse.insert]
    split
    · next hlt =>
      refine List.pairwise_cons.mpr ⟨?_, h⟩
      intro e he
      rcases List.mem_cons.mp he with rfl | he
      · exact hlt
      · exact lt_trans hlt (h1 e he)
    · next hlt =>
      refine List.pairwise_cons.mpr ⟨?_, ih h2 (fun e he => hi e (by simp [he]))⟩
      intro e he
      rcases Sparse.mem_insert.mp he with rfl | he
      · show k < i
        omega
      · exact h1 e he

/-- A write keeps the canonical form. -/
theorem Sparse.wf_put [DecidableEq α] {d : α} {size : Nat} {m : List (Nat × α)} (h : Sparse.wf d size m) {i : Nat}
    (hi : i < size) (v : α) : Sparse.wf d size (Sparse.put d m i v) := by
  unfold Sparse.put
  split
  · exact Sparse.wf_erase h i
  · next hv =>
    have he := Sparse.wf_erase h i
    refine ⟨Sparse.pairwise_insert he.1 (fun e h => (Sparse.mem_erase.mp h).2), ?_⟩
    intro e hm
    rcases Sparse.mem_insert.mp hm with rfl | hm
    · exact ⟨hi, hv⟩
    · exact he.2 e hm

theorem Sparse.get_eq_default {d : α} {m : List (Nat × α)} {i : Nat} (h : ∀ e ∈ m, e.1 ≠ i) :
    Sparse.get d m i = d := by
  induction m with
  | nil => rfl
  | cons e m ih =>
    obtain ⟨k, w⟩ := e
    rw [Sparse.get_cons, if_neg (h (k, w) (by simp)), ih (fun e he => h e (by simp [he]))]

/-- Two canonical arrays that read alike everywhere are the same list. -/
theorem Sparse.ext {d : α} {size : Nat} {m m' : List (Nat × α)} (h : Sparse.wf d size m)
    (h' : Sparse.wf d size m') (hg : ∀ i, Sparse.get d m i = Sparse.get d m' i) : m = m' := by
  induction m generalizing m' with
  | nil =>
    cases m' with
    | nil => rfl
    | cons e m' =>
      obtain ⟨k, w⟩ := e
      have := hg k
      rw [Sparse.get_nil, Sparse.get_cons, if_pos rfl] at this
      exact absurd this.symm (h'.2 (k, w) (by simp)).2
  | cons e m ih =>
    obtain ⟨k, w⟩ := e
    cases m' with
    | nil =>
      have := hg k
      rw [Sparse.get_nil, Sparse.get_cons, if_pos rfl] at this
      exact absurd this (h.2 (k, w) (by simp)).2
    | cons e' m' =>
      obtain ⟨k', w'⟩ := e'
      obtain ⟨hp, ht⟩ := List.pairwise_cons.mp h.1
      obtain ⟨hp', ht'⟩ := List.pairwise_cons.mp h'.1
      have below : ∀ {x : Nat × α} {l : List (Nat × α)} {j : Nat}, (∀ y ∈ l, x.1 < y.1) → j ≤ x.1 →
          ∀ y ∈ l, y.1 ≠ j := fun hl hj y hy hxy => by have := hl y hy; omega
      have hkk : k = k' := by
        rcases lt_trichotomy k k' with hlt | heq | hlt
        · have := hg k
          rw [Sparse.get_cons, if_pos rfl, Sparse.get_cons, if_neg (by omega),
            Sparse.get_eq_default (below hp' (le_of_lt hlt))] at this
          exact absurd this (h.2 (k, w) (by simp)).2
        · exact heq
        · have := hg k'
          rw [Sparse.get_cons, if_neg (by omega), Sparse.get_cons, if_pos rfl,
            Sparse.get_eq_default (below hp (le_of_lt hlt))] at this
          exact absurd this.symm (h'.2 (k', w') (by simp)).2
      subst hkk
      have hw : w = w' := by simpa [Sparse.get_cons] using hg k
      subst hw
      have hm : m = m' := by
        refine ih ⟨ht, fun e he => h.2 e (by simp [he])⟩ ⟨ht', fun e he => h'.2 e (by simp [he])⟩ (fun i => ?_)
        by_cases hik : k = i
        · subst hik
          rw [Sparse.get_eq_default (below hp le_rfl), Sparse.get_eq_default (below hp' le_rfl)]
        · simpa [Sparse.get_cons, hik] using hg i
      rw [hm]

end Sys2Proof.Machine
end

