-- ==== Sys2Proof/Laws/InputQueue.lean ====
section
/-! SUPPORT. What a push and a pop do to each part of the input queue. -/

namespace Sys2Proof.Machine

variable (q : InputQueue)

@[simp] theorem InputQueue.push_cursor (d v : Word) : (q.push d v).cursor = q.cursor + 1 := rfl

@[simp] theorem InputQueue.push_count (d v : Word) : (q.push d v).count = q.count + 1 := rfl

/-- Every slot after a push. -/
theorem InputQueue.slotAt_push (d v : Word) (i : Nat) :
    (q.push d v).slotAt i = if i = (q.cursor + 1).toNat then { deviceId := d, data := v } else q.slotAt i := by
  simp [InputQueue.slotAt, InputQueue.push, Sparse.get_put]

@[simp] theorem InputQueue.pop_slot : q.pop.slot = q.slot := rfl

@[simp] theorem InputQueue.slotAt_pop (i : Nat) : q.pop.slotAt i = q.slotAt i := rfl

@[simp] theorem InputQueue.pop_count : q.pop.count = q.count - 1 := rfl

theorem InputQueue.pop_cursor : q.pop.cursor = if q.count = 0 then q.cursor else q.cursor - 1 := rfl

/-- A pop of the empty queue answers 0 and leaves the queue. -/
theorem InputQueue.pop_of_empty {q : InputQueue} (h : q.count = 0) : q.popValue = 0 ∧ q.pop = q := by
  obtain ⟨slot, cursor, count⟩ := q
  simp_all [InputQueue.popValue, InputQueue.pop]

theorem InputQueue.popValue_of_pos {q : InputQueue} (h : 0 < q.count) :
    q.popValue = (q.slotAt q.cursor.toNat).data := by
  simp [InputQueue.popValue, Nat.ne_of_gt h]

/-- A pop right after a push answers the word pushed. -/
@[simp] theorem InputQueue.popValue_push (d v : Word) : (q.push d v).popValue = v := by
  rw [InputQueue.popValue_of_pos (by simp), InputQueue.slotAt_push]
  simp

@[simp] theorem InputQueue.pop_push_cursor (d v : Word) : (q.push d v).pop.cursor = q.cursor := by
  simp [InputQueue.pop_cursor]

theorem InputQueue.wf_push {q : InputQueue} (h : q.wf) (d v : Word) : (q.push d v).wf :=
  Sparse.wf_put h (q.cursor + 1).isLt _

theorem InputQueue.wf_pop {q : InputQueue} (h : q.wf) : q.pop.wf := h

end Sys2Proof.Machine
end

