-- ==== Sys2Proof/Laws/SystemDevice.lean ====
section
/-! SUPPORT. The one lemma that says everything an output can do, and the fields it never changes. -/

namespace Sys2Proof.Machine

/-- Everything a command to the idle device can do. -/
theorem systemCommand_cases (n : Addr) (s : State) :
    (n = 0 ∧ systemCommand n s = systemQuery s) ∨
    (n = 1 ∧ systemCommand n s = systemStage s) ∨
    (n = 3 ∧ systemCommand n s = systemShutdown s) ∨
    (n ≠ 0 ∧ n ≠ 1 ∧ n ≠ 3 ∧ systemCommand n s = s) := by
  by_cases h0 : n = 0
  · exact .inl ⟨h0, by rw [h0]; rfl⟩
  by_cases h1 : n = 1
  · exact .inr (.inl ⟨h1, by rw [h1]; rfl⟩)
  by_cases h3 : n = 3
  · exact .inr (.inr (.inl ⟨h3, by rw [h3]; rfl⟩))
  refine .inr (.inr (.inr ⟨h0, h1, h3, ?_⟩))
  unfold systemCommand
  split
  · next h => exact absurd (BitVec.eq_of_toNat_eq h) h0
  · next h => exact absurd (BitVec.eq_of_toNat_eq h) h1
  · rfl
  · next h => exact absurd (BitVec.eq_of_toNat_eq h) h3
  · rfl

theorem outputDispatch_other {dev : Word} (h : dev ≠ systemDeviceId) (n : Addr) (s : State) :
    outputDispatch dev n s = s := if_neg h

theorem outputDispatch_staged_eq {s : State} (h : s.sys.pending = true) (n : Addr) :
    outputDispatch systemDeviceId n s = systemArgument n s := by
  rw [outputDispatch, if_pos rfl, systemDevice, if_pos h]

theorem outputDispatch_idle_eq {s : State} (h : s.sys.pending = false) (n : Addr) :
    outputDispatch systemDeviceId n s = systemCommand n s := by
  rw [outputDispatch, if_pos rfl, systemDevice, if_neg (by simp [h])]

/-- Everything `OutputDispatch` can do: nothing, an argument taken, the query's push, a command staged, a shutdown request. -/
theorem outputDispatch_cases (dev : Word) (n : Addr) (s : State) :
    (dev ≠ systemDeviceId ∧ outputDispatch dev n s = s) ∨
    (dev = systemDeviceId ∧ s.sys.pending = true ∧ outputDispatch dev n s = systemArgument n s) ∨
    (dev = systemDeviceId ∧ s.sys.pending = false ∧ n = 0 ∧ outputDispatch dev n s = systemQuery s) ∨
    (dev = systemDeviceId ∧ s.sys.pending = false ∧ n = 1 ∧ outputDispatch dev n s = systemStage s) ∨
    (dev = systemDeviceId ∧ s.sys.pending = false ∧ n = 3 ∧ outputDispatch dev n s = systemShutdown s) ∨
    (dev = systemDeviceId ∧ s.sys.pending = false ∧ n ≠ 0 ∧ n ≠ 1 ∧ n ≠ 3 ∧ outputDispatch dev n s = s) := by
  by_cases hd : dev = systemDeviceId
  · rw [hd]
    cases hp : s.sys.pending
    · rw [outputDispatch_idle_eq hp]
      rcases systemCommand_cases n s with ⟨h, e⟩ | ⟨h, e⟩ | ⟨h, e⟩ | ⟨h0, h1, h3, e⟩
      · exact .inr (.inr (.inl ⟨rfl, rfl, h, e⟩))
      · exact .inr (.inr (.inr (.inl ⟨rfl, rfl, h, e⟩)))
      · exact .inr (.inr (.inr (.inr (.inl ⟨rfl, rfl, h, e⟩))))
      · exact .inr (.inr (.inr (.inr (.inr ⟨rfl, rfl, h0, h1, h3, e⟩))))
    · exact .inr (.inl ⟨rfl, rfl, outputDispatch_staged_eq hp n⟩)
  · exact .inl ⟨hd, outputDispatch_other hd n s⟩

/-- An output changes the input queue and the system device, and nothing else. -/
theorem outputDispatch_frame (dev : Word) (n : Addr) (s : State) :
    outputDispatch dev n s = (s.setInq (outputDispatch dev n s).inq).setSys (outputDispatch dev n s).sys := by
  rcases outputDispatch_cases dev n s with ⟨_, h⟩ | ⟨_, _, h⟩ | ⟨_, _, _, h⟩ | ⟨_, _, _, h⟩ | ⟨_, _, _, h⟩ | ⟨_, _, _, _, _, h⟩ <;>
    rw [h] <;> rfl

variable (dev : Word) (n : Addr) (s : State)

@[simp] theorem outputDispatch_mem : (outputDispatch dev n s).mem = s.mem := by rw [outputDispatch_frame]; rfl

@[simp] theorem outputDispatch_a : (outputDispatch dev n s).a = s.a := by rw [outputDispatch_frame]; rfl

@[simp] theorem outputDispatch_b : (outputDispatch dev n s).b = s.b := by rw [outputDispatch_frame]; rfl

@[simp] theorem outputDispatch_c : (outputDispatch dev n s).c = s.c := by rw [outputDispatch_frame]; rfl

@[simp] theorem outputDispatch_iar : (outputDispatch dev n s).iar = s.iar := by rw [outputDispatch_frame]; rfl

@[simp] theorem outputDispatch_zero : (outputDispatch dev n s).zero = s.zero := by rw [outputDispatch_frame]; rfl

@[simp] theorem outputDispatch_carry : (outputDispatch dev n s).carry = s.carry := by rw [outputDispatch_frame]; rfl

@[simp] theorem outputDispatch_inputAvailable : (outputDispatch dev n s).inputAvailable = s.inputAvailable := by
  rw [outputDispatch_frame]; rfl

@[simp] theorem outputDispatch_aluMode : (outputDispatch dev n s).aluMode = s.aluMode := by rw [outputDispatch_frame]; rfl

@[simp] theorem outputDispatch_trace : (outputDispatch dev n s).trace = s.trace := by rw [outputDispatch_frame]; rfl

@[simp] theorem outputDispatch_cfg : (outputDispatch dev n s).cfg = s.cfg := by rw [outputDispatch_frame]; rfl

/-- A staged command is command 1 after an output, if it was before. -/
theorem outputDispatch_staged (h : s.sys.pending = true → s.sys.command = 1) :
    (outputDispatch dev n s).sys.pending = true → (outputDispatch dev n s).sys.command = 1 := by
  rcases outputDispatch_cases dev n s with ⟨_, e⟩ | ⟨_, _, e⟩ | ⟨_, _, _, e⟩ | ⟨_, _, _, e⟩ | ⟨_, _, _, e⟩ | ⟨_, _, _, _, _, e⟩ <;>
    rw [e] <;> simp_all [systemArgument, systemQuery, systemStage, systemShutdown]

/-- An output keeps the canonical form of the queue's storage. -/
theorem outputDispatch_wf (h : s.inq.wf) : (outputDispatch dev n s).inq.wf := by
  rcases outputDispatch_cases dev n s with ⟨_, e⟩ | ⟨_, _, e⟩ | ⟨_, _, _, e⟩ | ⟨_, _, _, e⟩ | ⟨_, _, _, e⟩ | ⟨_, _, _, _, _, e⟩ <;>
    rw [e] <;> first | exact h | exact InputQueue.wf_push h _ _

end Sys2Proof.Machine
end

