-- ==== Sys2Proof/Laws/Exec.lean ====
section
/-! SUPPORT. What `exec` answers for each instruction, in the named updates of Laws/State.lean, and `step` from `exec`. -/

namespace Sys2Proof.Machine

variable (n : Addr) (s : State)

@[simp] theorem exec_lda : exec (.lda n) s = .next (s.setA (immediate n)).runAlu.advance := rfl

@[simp] theorem exec_laa : exec (.laa n) s = .next (s.setA (Memory.read s.mem n)).runAlu.advance := rfl

@[simp] theorem exec_add : exec (.add n) s = .next ((s.setB (immediate n)).setMode .add).runAlu.advance := rfl

@[simp] theorem exec_sbd : exec (.sbd n) s = .next ((s.setB (immediate n)).setMode .subtract).runAlu.advance := rfl

@[simp] theorem exec_ada : exec (.ada n) s = .next ((s.setB (Memory.read s.mem n)).setMode .add).runAlu.advance := rfl

@[simp] theorem exec_sba : exec (.sba n) s = .next ((s.setB (Memory.read s.mem n)).setMode .subtract).runAlu.advance := rfl

@[simp] theorem exec_str : exec (.str n) s = .next (s.writeWord n s.c).advance := rfl

@[simp] theorem exec_std :
    exec (.std n) s =
      .next (((s.setC (s.a &&& ~~~s.b)).writeWord n (s.a &&& ~~~s.b)).setMode .other).runAlu.advance := rfl

@[simp] theorem exec_ssd : exec (.ssd n) s = .next ((s.setC (rotated s.a s.b)).setMode .other).runAlu.advance := rfl

@[simp] theorem exec_jmp : exec (.jmp n) s = .next (s.jumpIf true n) := rfl

@[simp] theorem exec_jiz : exec (.jiz n) s = .next (s.jumpIf s.zero n) := rfl

@[simp] theorem exec_jie : exec (.jie n) s = .next (s.jumpIf s.carry n) := rfl

@[simp] theorem exec_jii : exec (.jii n) s = .next (s.jumpIf (inputAvailableNow s) n) := rfl

@[simp] theorem exec_jbt : exec (.jbt n) s = .next (s.jumpIf (jbtCondition s.cfg.jbtReading s.a s.b) n) := rfl

@[simp] theorem exec_gin : exec (.gin n) s = .next ((s.setInq s.inq.pop).writeWord n s.inq.popValue).advance := rfl

@[simp] theorem exec_sot : exec (.sot n) s = .next (outputDispatch s.a n s).advance := rfl

/-- A step is the execution of the fetched instruction, then the trace entry. -/
theorem step_of_exec {s t : State} (h : exec (fetch s) s = .next t) :
    step s = .next (logStep (fetch s) s t) := by
  simp only [step, h]

/-- A step that answers a next state went through the execution of the fetched instruction. -/
theorem exec_of_step {s u : State} (h : step s = .next u) :
    ∃ t, exec (fetch s) s = .next t ∧ u = logStep (fetch s) s t := by
  unfold step at h
  split at h
  · next t ht => exact ⟨t, ht, by injection h with h; exact h.symm⟩
  · cases h
  · cases h

end Sys2Proof.Machine
end

