-- ==== Sys2Proof/Laws/HostInterface.lean ====
section
/-! SUPPORT. What one call, one operation and one prefix of a schedule do; the boot sequence as calls of the host. -/

namespace Sys2Proof.Machine

@[simp] theorem Session.machine_booting (cfg : Config) : (Session.booting cfg).machine = State.resetWith cfg := rfl

@[simp] theorem Session.machine_launched (s : State) : (Session.launched s).machine = s := rfl

@[simp] theorem hostOp_step (s : State) : hostOp .step s = step s := rfl

@[simp] theorem hostOp_pushInput (dev data : Word) (s : State) :
    hostOp (.pushInput dev data) s = .next (s.pushInput dev data) := rfl

@[simp] theorem hostCall_load (image : List Word) (h : Session) : hostCall (.load image) h = hostLoad image h := rfl

theorem hostCall_op {op : HostOp} {h : Session} {t : State} (ht : hostOp op h.machine = .next t) :
    hostCall (.op op) h = .next (.launched t) := by
  simp only [hostCall, ht]

/-- A call that answers leaves a launched session: by the admitted `load`, or by one operation. -/
theorem hostCall_cases {call : HostCall} {h h' : Session} (hc : hostCall call h = .next h') :
    (∃ cfg image, call = .load image ∧ h = .booting cfg ∧ h' = .launched ((State.resetWith cfg).load image)) ∨
      ∃ op t, call = .op op ∧ hostOp op h.machine = .next t ∧ h' = .launched t := by
  cases call with
  | load image =>
    cases h with
    | booting cfg => exact .inl ⟨cfg, image, rfl, rfl, by simpa [hostLoad] using hc.symm⟩
    | launched s => cases hc
  | op op =>
    simp only [hostCall] at hc
    split at hc
    · next t ht => exact .inr ⟨op, t, rfl, ht, by simpa using hc.symm⟩
    · cases hc
    · cases hc

@[simp] theorem firstOps_zero (schedule : Nat → HostOp) : firstOps schedule 0 = [] := rfl

theorem firstOps_succ (schedule : Nat → HostOp) (n : Nat) :
    firstOps schedule (n + 1) = firstOps schedule n ++ [schedule n] := by
  simp [firstOps, List.range_succ]

/-- A finite execution continues where its first part ended. -/
theorem runSchedule_append {first : List HostOp} {s t : State} (h : runSchedule first s = .next t) (rest : List HostOp) :
    runSchedule (first ++ rest) s = runSchedule rest t := by
  induction first generalizing s with
  | nil => cases h; rfl
  | cons op ops ih =>
    simp only [runSchedule, List.cons_append] at h ⊢
    split at h
    · next u hu => simpa [hu] using ih h
    · cases h
    · cases h

/-- The boot sequence is a `load` and pushes, as calls of the host. -/
theorem runCalls_boot (cfg : Config) (image : List Word) (pushes : List QueueEntry) :
    runCalls (.load image :: pushes.map fun e => .op (.pushInput e.deviceId e.data)) (.booting cfg) =
      .next (.launched (boot cfg image pushes)) := by
  simp only [runCalls, hostCall_load, hostLoad, boot]
  generalize (State.resetWith cfg).load image = s
  induction pushes generalizing s with
  | nil => rfl
  | cons e es ih => exact ih _

end Sys2Proof.Machine
end

