-- ==== Sys2Proof/Laws/Memory.lean ====
section
/-! SUPPORT. What a memory write does to every byte and every word, and that it keeps the canonical form. -/

namespace Sys2Proof.Machine

/-- Every byte after a word write. -/
theorem Memory.byteAt_write (m : List Host.Cell) (n : Addr) (v : Word) (k : Nat) :
    Memory.byteAt (Memory.write m n v) k =
      if k = 2 * n.toNat + 1 then lowByte v else if k = 2 * n.toNat then highByte v else Memory.byteAt m k := by
  simp [Memory.byteAt, Memory.write, Memory.setByte, Sparse.get_put]

/-- A write leaves every byte outside its word as it was. -/
theorem Memory.byteAt_write_other (m : List Host.Cell) (n : Addr) (v : Word) {k : Nat}
    (h : k ≠ 2 * n.toNat) (h' : k ≠ 2 * n.toNat + 1) :
    Memory.byteAt (Memory.write m n v) k = Memory.byteAt m k := by
  simp [Memory.byteAt_write, h, h']

@[simp] theorem Memory.read_write_same (m : List Host.Cell) (n : Addr) (v : Word) :
    Memory.read (Memory.write m n v) n = v := by
  simp [Memory.read, Memory.byteAt_write]

theorem Memory.read_write_other (m : List Host.Cell) {n k : Addr} (v : Word) (h : k ≠ n) :
    Memory.read (Memory.write m n v) k = Memory.read m k := by
  have hn : k.toNat ≠ n.toNat := fun e => h (BitVec.eq_of_toNat_eq e)
  unfold Memory.read
  rw [Memory.byteAt_write_other _ _ _ (by omega) (by omega), Memory.byteAt_write_other _ _ _ (by omega) (by omega)]

@[simp] theorem Memory.byteAt_nil (k : Nat) : Memory.byteAt [] k = 0 := rfl

@[simp] theorem Memory.read_nil (n : Addr) : Memory.read [] n = 0 := by
  simp [Memory.read, wordOfBytes]

/-- Words that read alike have bytes that read alike. -/
theorem Memory.byteAt_of_read {m m' : List Host.Cell} (h : ∀ n, Memory.read m n = Memory.read m' n) {k : Nat}
    (hk : k < 2 * memWords) : Memory.byteAt m k = Memory.byteAt m' k := by
  have key := h (BitVec.ofNat 12 (k / 2))
  have hn : (BitVec.ofNat 12 (k / 2)).toNat = k / 2 := by
    rw [BitVec.toNat_ofNat]
    exact Nat.mod_eq_of_lt (by have : k < 2 * 4096 := hk; omega)
  unfold Memory.read at key
  rw [hn] at key
  rcases Nat.mod_two_eq_zero_or_one k with he | ho
  · have e : 2 * (k / 2) = k := by omega
    have := congrArg highByte key
    simpa [e] using this
  · have e : 2 * (k / 2) + 1 = k := by omega
    have := congrArg lowByte key
    simpa [e] using this

theorem Memory.wf_nil : Memory.wf [] := ⟨List.Pairwise.nil, by simp⟩

theorem Memory.wf_setByte {m : List Host.Cell} (h : Memory.wf m) {k : Nat} (hk : k < 2 * memWords) (v : Byte) :
    Memory.wf (Memory.setByte m k v) := Sparse.wf_put h hk v

/-- `MemWrite` keeps the canonical form. -/
theorem Memory.wf_write {m : List Host.Cell} (h : Memory.wf m) (n : Addr) (v : Word) :
    Memory.wf (Memory.write m n v) := by
  have := n.isLt
  have hk : 2 * n.toNat + 1 < 2 * 4096 := by omega
  exact Memory.wf_setByte (Memory.wf_setByte h (Nat.lt_of_succ_lt hk) _) hk _

/-- Canonical memories that read alike in every word are equal. -/
theorem Memory.ext {m m' : List Host.Cell} (h : Memory.wf m) (h' : Memory.wf m')
    (hr : ∀ n, Memory.read m n = Memory.read m' n) : m = m' := by
  refine Sparse.ext h h' (fun k => ?_)
  by_cases hk : k < 2 * memWords
  · exact Memory.byteAt_of_read hr hk
  · rw [Sparse.get_eq_default (fun e he => by have := (h.2 e he).1; omega),
      Sparse.get_eq_default (fun e he => by have := (h'.2 e he).1; omega)]

end Sys2Proof.Machine
end

