-- ==== Sys2Proof/Laws/PerInstr.lean ====
section
/-! SUPPORT. The per-instruction family `WordLayout`: the word of each instruction is `p * 4096 + n` with its own opcode `p`
(spec/30_encoding.md R90, R92), one lemma per constructor. -/

namespace Sys2Proof.Laws

/-- The instruction's word is its opcode times 4096 plus its operand, and it is well formed. -/
def WordLayout.Statement (i : Instr) : Prop :=
  (encodeWord i).toNat = i.opcode.toNat * 4096 + i.operand.toNat ∧ i.wf = true

theorem WordLayout.lda (n : Addr) : WordLayout.Statement (.lda n) := ⟨fields_toNat _ _, rfl⟩

theorem WordLayout.laa (n : Addr) : WordLayout.Statement (.laa n) := ⟨fields_toNat _ _, rfl⟩

theorem WordLayout.add (n : Addr) : WordLayout.Statement (.add n) := ⟨fields_toNat _ _, rfl⟩

theorem WordLayout.sbd (n : Addr) : WordLayout.Statement (.sbd n) := ⟨fields_toNat _ _, rfl⟩

theorem WordLayout.ada (n : Addr) : WordLayout.Statement (.ada n) := ⟨fields_toNat _ _, rfl⟩

theorem WordLayout.sba (n : Addr) : WordLayout.Statement (.sba n) := ⟨fields_toNat _ _, rfl⟩

theorem WordLayout.str (n : Addr) : WordLayout.Statement (.str n) := ⟨fields_toNat _ _, rfl⟩

theorem WordLayout.std (n : Addr) : WordLayout.Statement (.std n) := ⟨fields_toNat _ _, rfl⟩

theorem WordLayout.ssd (n : Addr) : WordLayout.Statement (.ssd n) := ⟨fields_toNat _ _, rfl⟩

theorem WordLayout.jmp (n : Addr) : WordLayout.Statement (.jmp n) := ⟨fields_toNat _ _, rfl⟩

theorem WordLayout.jiz (n : Addr) : WordLayout.Statement (.jiz n) := ⟨fields_toNat _ _, rfl⟩

theorem WordLayout.jie (n : Addr) : WordLayout.Statement (.jie n) := ⟨fields_toNat _ _, rfl⟩

theorem WordLayout.jii (n : Addr) : WordLayout.Statement (.jii n) := ⟨fields_toNat _ _, rfl⟩

theorem WordLayout.jbt (n : Addr) : WordLayout.Statement (.jbt n) := ⟨fields_toNat _ _, rfl⟩

theorem WordLayout.gin (n : Addr) : WordLayout.Statement (.gin n) := ⟨fields_toNat _ _, rfl⟩

theorem WordLayout.sot (n : Addr) : WordLayout.Statement (.sot n) := ⟨fields_toNat _ _, rfl⟩

end Sys2Proof.Laws
end

