-- ==== Sys2Proof/Laws/Trace.lean ====
section
/-! SUPPORT. What an append does to each part of the trace log. -/

namespace Sys2Proof.Machine

variable (l : TraceLog) (e : TraceEntry)

@[simp] theorem TraceLog.append_count : (l.append e).count = l.count + 1 := rfl

theorem TraceLog.append_overflow : (l.append e).overflow = (l.overflow || decide (traceCap < l.count + 1)) := by
  show (if l.count + 1 > traceCap then true else l.overflow) = _
  split <;> simp_all

/-- Every slot after an append. -/
theorem TraceLog.slotAt_append (i : Nat) :
    (l.append e).slotAt i = if i = l.count % traceCap then e else l.slotAt i := by
  simp [TraceLog.slotAt, TraceLog.append, Sparse.get_put]

theorem TraceLog.wf_append {l : TraceLog} (h : l.wf) (e : TraceEntry) : (l.append e).wf :=
  Sparse.wf_put h (Nat.mod_lt _ (by decide)) e

/-- An append keeps the overflow flag what the count says it is. -/
theorem TraceLog.overflow_append {l : TraceLog} (h : l.overflow = decide (traceCap < l.count)) :
    (l.append e).overflow = decide (traceCap < (l.append e).count) := by
  rw [TraceLog.append_overflow, h, TraceLog.append_count]
  by_cases h1 : traceCap < l.count
  · simp [h1, Nat.lt_succ_of_lt h1]
  · simp [h1]

end Sys2Proof.Machine
end

