-- ==== Sys2Proof/Tests/Slice0.lean ====
section
/-! SUPPORT. Small tests. Expected results are those of spec/95_test_vectors.md (section given at each group), never the model's
own answers; and, for each statement with hypotheses, a named theorem that meets them. -/

namespace Sys2Proof.Tests

open Sys2Proof Sys2Proof.Machine

/-! Well-formedness: an ill-formed term for each check -/

/-- A configuration with every parameter a numeral. -/
def cfg : Config where
  aluModeReset         := .other
  jbtReading           := .allBitsOfB
  inputAvailableWiring := .neverDriven
  clockSpeedReset      := 0x0777
  keyboardId           := 5
  mouseId              := 6

theorem test_config_ok : cfg.wf = true := by decide

theorem test_config_keyboard_is_system : Config.wf { cfg with keyboardId := 1 } = false := by decide

theorem test_config_mouse_is_system : Config.wf { cfg with mouseId := 1 } = false := by decide

theorem test_config_same_ids : Config.wf { cfg with mouseId := 5 } = false := by decide

theorem test_image_too_long : imageWf (List.replicate 4097 0) = false := by
  unfold imageWf; rw [List.length_replicate]; rfl

theorem test_image_full : imageWf (List.replicate 4096 0) = true := by
  unfold imageWf; rw [List.length_replicate]; rfl

theorem test_ssd_with_operand_is_well_formed : (Instr.ssd 4095).wf = true := by decide

/-! Decoding: words written out bit by bit from the encodings of spec/30_encoding.md R92 -/

theorem test_decode_lda : decodeWord 0b0000_000000000101 = .lda 5 := by decide

theorem test_decode_laa : decodeWord 0b0001_000000001000 = .laa 8 := by decide

theorem test_decode_add : decodeWord 0b0010_111111111111 = .add 4095 := by decide

theorem test_decode_sbd : decodeWord 0b0011_000000001010 = .sbd 10 := by decide

theorem test_decode_ada : decodeWord 0b0100_000000001001 = .ada 9 := by decide

theorem test_decode_sba : decodeWord 0b0101_000000010100 = .sba 20 := by decide

theorem test_decode_str : decodeWord 0b0110_000000001010 = .str 10 := by decide

theorem test_decode_std : decodeWord 0b0111_000000001101 = .std 13 := by decide

theorem test_decode_ssd : decodeWord 0b1000_101010111100 = .ssd 2748 := by decide

theorem test_decode_jmp : decodeWord 0b1001_101010111100 = .jmp 2748 := by decide

theorem test_decode_jiz : decodeWord 0b1010_000000001011 = .jiz 11 := by decide

theorem test_decode_jie : decodeWord 0b1011_000000000101 = .jie 5 := by decide

theorem test_decode_jii : decodeWord 0b1100_000001100100 = .jii 100 := by decide

theorem test_decode_jbt : decodeWord 0b1101_000000000100 = .jbt 4 := by decide

theorem test_decode_gin : decodeWord 0b1110_101001100000 = .gin 2656 := by decide

theorem test_decode_sot : decodeWord 0b1111_111111111111 = .sot 4095 := by decide

theorem test_decode_bytes : decodeBytes [0x10, 0x08, 0x40, 0x09] = .ok (.laa 8, [0x40, 0x09]) := by rfl

theorem test_decode_no_byte : decodeBytes [] = .error .noByte := by rfl

theorem test_decode_lone_byte : decodeBytes [0x90] = .error .loneByte := by rfl

theorem test_decode_table_word : decodeTableWord 16 0xF003 = some (.sot 3) := by decide

theorem test_decode_table_word_too_wide : decodeTableWord 32 0xF003 = none := by decide

theorem test_encode_sbd : encodeWord (.sbd 10) = 0x300A := by decide

/-! One step on a small state -/

/-- The reset state of `cfg`. -/
def s0 : State := State.resetWith cfg

/-- Does the step that runs the word `w` in `s` reach a state that `p` accepts? -/
def ran (s : State) (w : Nat) (p : State → Bool) : Bool :=
  match step (s.withFetchWord 16 w) with
  | .next t => p t
  | _       => false

/-! spec/95_test_vectors.md section 2.3 and 2.9 -/

theorem test_lda_subtract_borrow :
    ran { s0 with b := 3, aluMode := .subtract } 0x0002
      (fun t => t.a == 2 && t.c == 65535 && t.carry && !t.zero && t.iar == 1) = true := by decide

theorem test_lda_mode_other_keeps_c :
    ran { s0 with c := 9, carry := true } 0x0005 (fun t => t.a == 5 && t.c == 9 && t.carry && !t.zero) = true := by decide

theorem test_lda_first_after_default_reset :
    ran State.reset 0x0005 (fun t => t.a == 5 && t.c == 0 && t.zero && !t.carry) = true := by decide

theorem test_laa_adds_with_carry :
    ran ({ s0 with b := 10000, aluMode := .add }.writeWord 8 60000) 0x1008
      (fun t => t.a == 60000 && t.c == 4464 && t.carry && !t.zero) = true := by decide

theorem test_laa_reads_itself :
    ran { s0 with iar := 4, aluMode := .add } 0x1004 (fun t => t.a == 0x1004 && t.c == 0x1004 && t.iar == 5) = true := by
  decide

/-! Section 2.4 -/

theorem test_add_carry :
    ran { s0 with a := 65000 } 0x2FFF
      (fun t => t.b == 4095 && t.c == 3559 && t.carry && !t.zero && decide (t.aluMode = .add)) = true := by decide

theorem test_add_sets_mode_before_alu :
    ran { s0 with a := 7 } 0x2001 (fun t => t.b == 1 && t.c == 8) = true := by decide

theorem test_sbd_borrow :
    ran { s0 with a := 5 } 0x300A
      (fun t => t.b == 10 && t.c == 65531 && t.carry && !t.zero && decide (t.aluMode = .subtract)) = true := by decide

theorem test_sbd_equal : ran { s0 with a := 10 } 0x300A (fun t => t.c == 0 && !t.carry && t.zero) = true := by decide

theorem test_ada_source_example :
    ran ({ s0 with a := 60000 }.writeWord 9 10000) 0x4009
      (fun t => t.b == 10000 && t.c == 4464 && t.carry && !t.zero) = true := by decide

theorem test_ada_largest_sum :
    ran ({ s0 with a := 65535 }.writeWord 9 65535) 0x4009 (fun t => t.c == 65534 && t.carry) = true := by decide

theorem test_sba_borrow_to_one :
    ran (s0.writeWord 20 65535) 0x5014 (fun t => t.b == 65535 && t.c == 1 && t.carry && !t.zero) = true := by decide

theorem test_sba_plain :
    ran ({ s0 with a := 100 }.writeWord 20 58) 0x5014 (fun t => t.b == 58 && t.c == 42 && !t.carry) = true := by decide

/-! Section 2.5 -/

theorem test_str_stores_c :
    ran { s0 with c := 4464, carry := true } 0x600A
      (fun t => t.readWord 10 == 4464 && t.c == 4464 && t.carry && !t.zero) = true := by decide

theorem test_str_is_seen_by_the_next_fetch :
    ran { s0 with c := 0x9005, iar := 4 } 0x6005 (fun t => decide (fetch t = .jmp 5)) = true := by decide

theorem test_std_keeps_carry :
    ran { s0 with a := 0xFFFF, b := 0x0F0F, carry := true, aluMode := .add } 0x7020
      (fun t => t.c == 0xF0F0 && t.readWord 32 == 0xF0F0 && !t.zero && t.carry && decide (t.aluMode = .other)) = true := by
  decide

theorem test_std_zero :
    ran { s0 with a := 0x1234, b := 0x1234 } 0x7020 (fun t => t.c == 0 && t.readWord 32 == 0 && t.zero) = true := by decide

theorem test_ssd_by_twelve_stores_nothing :
    ran ({ s0 with a := 0xABCD, b := 12 }.writeWord 4095 7) 0x8FFF
      (fun t => t.c == 0xBCDA && t.readWord 4095 == 7 && t.a == 0xABCD && t.b == 12) = true := by decide

theorem test_ssd_by_fifteen : ran { s0 with a := 0x8001, b := 65535 } 0x8000 (fun t => t.c == 0x0003) = true := by decide

theorem test_rotate_loop_trace :
    rotateLoop 1 0x8001 = 0xC000 ∧ rotateLoop 2 0x8001 = 0x6000 ∧ rotateLoop 3 0x8001 = 0x3000 ∧
      rotateLoop 4 0x8001 = 0x1800 := by decide

/-! Section 2.6 -/

theorem test_jmp : ran { s0 with iar := 3 } 0x9ABC (fun t => t.iar == 2748) = true := by decide

theorem test_jmp_to_itself_at_the_top : ran { s0 with iar := 4095 } 0x9FFF (fun t => t.iar == 4095) = true := by decide

theorem test_iar_wraps : ran { s0 with iar := 4095 } 0x0000 (fun t => t.iar == 0) = true := by decide

theorem test_jiz_taken : ran { s0 with iar := 2, zero := true } 0xA00B (fun t => t.iar == 11) = true := by decide

theorem test_jiz_not_taken_wraps : ran { s0 with iar := 4095 } 0xA123 (fun t => t.iar == 0) = true := by decide

theorem test_jie_taken : ran { s0 with iar := 3, carry := true } 0xB005 (fun t => t.iar == 5) = true := by decide

theorem test_jie_not_taken : ran { s0 with iar := 3 } 0xB005 (fun t => t.iar == 4) = true := by decide

theorem test_jii_never_driven :
    ran { s0 with iar := 9, inq := { s0.inq with count := 2 } } 0xC064 (fun t => t.iar == 10) = true := by decide

theorem test_jii_queue_non_empty :
    ran { s0 with iar := 9, inq := { s0.inq with count := 2 }, cfg := { cfg with inputAvailableWiring := .queueNonEmpty } }
      0xC064 (fun t => t.iar == 100) = true := by decide

/-- The new `IAR` of `JBT 4` at address 2, in a reading. -/
def jbtAt (reading : JbtReading) (a b : Word) (iar : Addr) : Bool :=
  ran { s0 with iar := 2, a := a, b := b, cfg := { cfg with jbtReading := reading } } 0xD004 (fun t => t.iar == iar)

theorem test_jbt_all_bits_of_b :
    jbtAt .allBitsOfB 0x00F2 0x0002 4 = true ∧ jbtAt .allBitsOfB 0x0001 0x0002 3 = true ∧
      jbtAt .allBitsOfB 0x0004 0x0005 3 = true := by decide

theorem test_jbt_low_bit_of_a :
    jbtAt .lowBitOfA 0x00F2 0x0002 3 = true ∧ jbtAt .lowBitOfA 0x0001 0x0002 4 = true ∧
      jbtAt .lowBitOfA 0x0004 0x0005 3 = true := by decide

/-! Sections 2.7 and 2.8 -/

theorem test_gin_pops_across_slot_zero :
    ran { s0 with inq := ⟨[(0, ⟨9, 77⟩)], 0, 1⟩ } 0xE005
      (fun t => t.readWord 5 == 77 && t.inq.cursor == 4095 && t.inq.count == 0) = true := by decide

theorem test_gin_empty :
    ran (s0.writeWord 16 100) 0xE010 (fun t => t.readWord 16 == 0 && t.inq.cursor == 0 && t.inq.count == 0) = true := by
  decide

theorem test_queue_is_lifo : pops 3 ((s0.inq.push 1 100).push 2 200) = [200, 100, 0] := by decide

theorem test_push_wraps_to_slot_zero :
    ((InputQueue.mk [] 4095 0).push 3 8).cursor = 0 ∧ ((InputQueue.mk [] 4095 0).push 3 8).slot = [(0, ⟨3, 8⟩)] := by decide

theorem test_sot_query :
    ran { s0 with a := 1 } 0xF000
      (fun t => t.inq.count == 1 && decide (t.inq.slotAt 1 = ⟨1, 0x0777⟩) && !t.sys.pending) = true := by decide

theorem test_sot_payload_three_while_staged_is_an_argument :
    ran { s0 with a := 1, sys := ⟨true, 1, 0, false⟩ } 0xF003
      (fun t => decide (t.sys = ⟨false, 1, 3, false⟩)) = true := by decide

/-! Sections 2.10 and 2.11 -/

theorem test_trace_overflow_on_append_4097 :
    ran { s0 with iar := 7, trace := ⟨[], 4096, false⟩ } 0x9000
      (fun t => t.trace.overflow && t.trace.count == 4097 && (t.trace.slotAt 0).iar == 7 &&
        (t.trace.slotAt 0).opcode == 9) = true := by decide

theorem test_no_trace_overflow_on_append_4096 :
    ran { s0 with trace := ⟨[], 4095, false⟩ } 0x0000 (fun t => !t.trace.overflow && t.trace.count == 4096) = true := by decide

theorem test_load_drops_the_odd_byte :
    (s0.load (wordsOfBytes [0xF0, 0x03, 0x90])).readWord 0 = 0xF003 ∧
      (s0.load (wordsOfBytes [0xF0, 0x03, 0x90])).readWord 1 = 0 := by decide

theorem test_memory_stays_canonical : Memory.wf ((s0.writeWord 3 0x00FF).writeWord 3 0).mem ∧
    ((s0.writeWord 3 0x00FF).writeWord 3 0).mem = [] := by decide

/-! Each statement's hypotheses can be met together; a witness for each clause -/

theorem reset_legal : Inv s0 where
  memory         := by decide
  queue          := by decide
  log            := by decide
  overflow       := by decide
  inputAvailable := rfl
  staged         := by decide

theorem witness_StepRunsTheFetchedInstruction :
    decodeBytes [Memory.byteAt (s0.writeWord 0 0x300A).mem (2 * (s0.writeWord 0 0x300A).iar.toNat),
      Memory.byteAt (s0.writeWord 0 0x300A).mem (2 * (s0.writeWord 0 0x300A).iar.toNat + 1)] = .ok (.sbd 10, []) := by rfl

theorem witness_DecodeAndEncodeAgree : (Instr.sot 4095).wf = true := by decide

theorem witness_TraceCountCountsSteps :
    ∃ s : State, s.trace.overflow = decide (4096 < s.trace.count) ∧ s.trace.count = 4096 :=
  ⟨{ s0 with trace := ⟨[], 4096, false⟩ }, by decide⟩

theorem witness_AddGivesTheSeventeenBitSum : ∃ s : State, s.aluMode = .add ∧ s.a = 60000 ∧ s.b = 10000 :=
  ⟨{ s0 with aluMode := .add, a := 60000, b := 10000 }, by decide⟩

theorem witness_SubtractCarryIsABorrow : ∃ s : State, s.aluMode = .subtract ∧ s.a = 0 ∧ s.b = 65535 :=
  ⟨{ s0 with aluMode := .subtract, b := 65535 }, by decide⟩

theorem witness_ZeroFlagFollowsC :
    (∃ s : State, runsAlu (fetch s) = true ∧ ¬ (s.zero = true ↔ s.c = 0#16)) ∧
      ∃ s : State, runsAlu (fetch s) = false ∧ (s.zero = true ↔ s.c = 0#16) :=
  ⟨⟨s0, by decide⟩, ⟨{ s0.writeWord 0 0x9000 with zero := true }, by decide⟩⟩

theorem witness_JizJumpsIfZero : (∃ s : State, s.zero = true) ∧ ∃ s : State, s.zero = false ∧ s.iar = 4095 :=
  ⟨⟨{ s0 with zero := true }, by decide⟩, ⟨{ s0 with iar := 4095 }, by decide⟩⟩

theorem witness_JieJumpsIfCarry : (∃ s : State, s.carry = true) ∧ ∃ s : State, s.carry = false ∧ s.iar = 4095 :=
  ⟨⟨{ s0 with carry := true }, by decide⟩, ⟨{ s0 with iar := 4095 }, by decide⟩⟩

theorem witness_JiiJumpsAsWired_neverDriven :
    (∃ s : State, s.cfg.inputAvailableWiring = .neverDriven ∧ s.inputAvailable = true) ∧
      ∃ s : State, s.cfg.inputAvailableWiring = .neverDriven ∧ s.inputAvailable = false :=
  ⟨⟨{ s0 with inputAvailable := true }, by decide⟩, ⟨s0, by decide⟩⟩

theorem witness_JiiJumpsAsWired_queueNonEmpty :
    (∃ s : State, s.cfg.inputAvailableWiring = .queueNonEmpty ∧ 0 < s.inq.count) ∧
      ∃ s : State, s.cfg.inputAvailableWiring = .queueNonEmpty ∧ s.inq.count = 0 :=
  ⟨⟨{ s0 with inq := ⟨[], 0, 1⟩, cfg := { cfg with inputAvailableWiring := .queueNonEmpty } }, by decide⟩,
    ⟨{ s0 with cfg := { cfg with inputAvailableWiring := .queueNonEmpty } }, by decide⟩⟩

theorem witness_JbtJumpsInBothReadings_allBitsOfB :
    (∃ s : State, s.cfg.jbtReading = .allBitsOfB ∧ ∀ i < 16, s.b.getLsbD i = true → s.a.getLsbD i = true) ∧
      ∃ s : State, s.cfg.jbtReading = .allBitsOfB ∧ ∃ i < 16, s.b.getLsbD i = true ∧ s.a.getLsbD i = false :=
  ⟨⟨{ s0 with a := 0x00F2, b := 2 }, by decide⟩, ⟨{ s0 with a := 1, b := 0x8000 }, rfl, 15, by decide⟩⟩

theorem witness_JbtJumpsInBothReadings_lowBitOfA :
    (∃ s : State, s.cfg.jbtReading = .lowBitOfA ∧ s.a.toNat % 2 = 1) ∧
      ∃ s : State, s.cfg.jbtReading = .lowBitOfA ∧ s.a.toNat % 2 = 0 :=
  ⟨⟨{ s0 with a := 0xFFFF, cfg := { cfg with jbtReading := .lowBitOfA } }, by decide⟩,
    ⟨{ s0 with a := 0xFFFE, cfg := { cfg with jbtReading := .lowBitOfA } }, by decide⟩⟩

theorem witness_JbtReadingsAgreeWhenBIsOne : (0xFFFE : Word).toNat % 2 = 0 := by decide

theorem witness_GinStoresThePoppedWord :
    (∃ s : State, s.inq.count = 0) ∧ ∃ s : State, 0 < s.inq.count ∧ s.inq.cursor = 0 :=
  ⟨⟨s0, by decide⟩, ⟨{ s0 with inq := ⟨[(0, ⟨9, 77⟩)], 0, 1⟩ }, by decide⟩⟩

theorem witness_SotToOtherDevicesDoesNothing : (∃ s : State, s.a ≠ 1 ∧ s.a = 0) ∧ ∃ s : State, s.a ≠ 1 ∧ s.a = 65535 :=
  ⟨⟨s0, by decide⟩, ⟨{ s0 with a := 65535 }, by decide⟩⟩

theorem witness_SotToKeyboardOrMouseDoesNothing :
    (∃ s : State, s.cfg.wf = true ∧ s.a = s.cfg.keyboardId) ∧ ∃ s : State, s.cfg.wf = true ∧ s.a = s.cfg.mouseId :=
  ⟨⟨{ s0 with a := 5 }, by decide⟩, ⟨{ s0 with a := 6 }, by decide⟩⟩

theorem witness_SotArgumentSetsTheClockSpeed :
    (∃ s : State, s.a = 1 ∧ s.sys.pending = true ∧ s.sys.command = 1 ∧ Inv s) ∧
      ∃ s : State, s.a = 1 ∧ s.sys.pending = true ∧ s.sys.command ≠ 1 :=
  ⟨⟨{ s0 with a := 1, sys := ⟨true, 1, 0, false⟩ }, rfl, rfl, rfl,
      { memory := by decide, queue := by decide, log := by decide, overflow := by decide, inputAvailable := rfl,
        staged := by decide }⟩,
    ⟨{ s0 with a := 1, sys := ⟨true, 2, 0, false⟩ }, by decide⟩⟩

theorem witness_SotCommandsToTheIdleDevice :
    (∃ s : State, s.a = 1 ∧ s.sys.pending = false) ∧ (0 : Addr).toNat = 0 ∧ (1 : Addr).toNat = 1 ∧ (2 : Addr).toNat = 2 ∧
      (3 : Addr).toNat = 3 ∧ 4 ≤ (4 : Addr).toNat ∧ 4 ≤ (4095 : Addr).toNat :=
  ⟨⟨{ s0 with a := 1 }, by decide⟩, by decide⟩

theorem witness_RotateLoopIsARotateRight : ∃ k : Nat, 1 ≤ k ∧ k ≤ 15 ∧ (65535 : Nat) < 65536 := ⟨15, by decide⟩

theorem witness_MemoryReadAfterWrite : Memory.wf [(8191, (1 : Byte))] ∧ (4095 : Addr) ≠ 0 := by decide

theorem witness_StoredWordIsSeenByTheNextFetch :
    ∃ s : State, ∃ n v, storeOf (fetch s) s = some (n, v) ∧ n = s.iar + 1 ∧ s.iar = 4095 :=
  ⟨({ s0 with iar := 4095, c := 7 } : State).writeWord 4095 0x6000, 0, 7, by decide⟩

theorem witness_StepKeepsLegalStates : ∃ s t : State, Inv s ∧ step s = .next t := ⟨s0, _, reset_legal, rfl⟩

theorem witness_HostOperationsKeepLegalStates :
    (∃ s : State, Inv s) ∧ (∃ h h' : Session, Inv h.machine ∧ hostCall (.load [0xF003]) h = .next h') ∧
      ∃ h h' : Session, Inv h.machine ∧ hostCall (.op .step) h = .next h' :=
  ⟨⟨s0, reset_legal⟩, ⟨.booting cfg, _, reset_legal, rfl⟩, ⟨.launched s0, _, reset_legal, rfl⟩⟩

theorem witness_NoStepDrivesInputAvailable :
    ∃ s : State, ∃ n, Inv s ∧ s.cfg.inputAvailableWiring = .neverDriven ∧ fetch s = .jii n :=
  ⟨s0.writeWord 0 0xC064, 100,
    { memory := by decide, queue := by decide, log := by decide, overflow := by decide, inputAvailable := rfl,
      staged := by decide }, by decide⟩

theorem witness_OnlyTheListedInstructionsWriteRegisters :
    ∃ s : State, loadsA (fetch s) = false ∧ loadsB (fetch s) = false ∧ writesC (fetch s) s.aluMode = false :=
  ⟨s0.writeWord 0 0xF000, by decide⟩

theorem witness_writesC_of_a_load_in_mode_other :
    ∃ s : State, loadsA (fetch s) = true ∧ writesC (fetch s) s.aluMode = false := ⟨s0, by decide⟩

theorem witness_OnlyTheListedInstructionsWriteFlags :
    ∃ s : State, runsAlu (fetch s) = false ∧ writesCarry (fetch s) s.aluMode = false := ⟨s0.writeWord 0 0xE000, by decide⟩

theorem witness_OnlyStoresWriteMemory :
    (∃ s : State, storeOf (fetch s) s = none) ∧ ∃ s : State, storeOf (fetch s) s = some (4095, 0) :=
  ⟨⟨s0, by decide⟩, ⟨s0.writeWord 0 0xEFFF, by decide⟩⟩

theorem witness_OnlyOutputsReachTheSystemDevice :
    (∃ s : State, touchesQueue (fetch s) = false ∧ outputsToSystem (fetch s) s = false) ∧
      (∃ s : State, fetch s = .sot 3 ∧ outputsToSystem (fetch s) s = false) ∧
      ∃ s : State, s.sys.shutdownRequested = true :=
  ⟨⟨s0, by decide⟩, ⟨s0.writeWord 0 0xF003, by decide⟩, ⟨{ s0 with sys := ⟨false, 0, 0, true⟩ }, by decide⟩⟩

theorem witness_TraceAndShutdownLatchAreInvisible :
    ∃ s s' : State, SameForPrograms s s' ∧ s.sys.shutdownRequested ≠ s'.sys.shutdownRequested ∧ s.trace ≠ s'.trace :=
  ⟨s0, { s0 with sys := { s0.sys with shutdownRequested := true }, trace := ⟨[], 9, false⟩ }, rfl, by decide⟩

theorem witness_JumpToItselfChangesOnlyTheTrace : ∃ s : State, fetch s = .jmp s.iar ∧ s.iar = 7 :=
  ⟨({ s0 with iar := 7 } : State).writeWord 7 0x9007, by decide⟩

/-- Two entries outstanding, the cursor past the wrap. -/
def smallQueue : InputQueue := ⟨[(0, ⟨2, 20⟩), (4095, ⟨1, 10⟩)], 0, 2⟩

theorem witness_InputQueueIsAStack : Represents smallQueue [20, 10] := ⟨rfl, by decide, by decide⟩

theorem witness_OverfullQueueRepeatsTheNewest :
    InputQueue.reset.count = 0 ∧ (List.replicate 4096 (QueueEntry.mk 1 1)).length ≤ 4096 ∧
      (List.replicate 4097 (QueueEntry.mk 1 1)).length = 4096 + 1 ∧
      (List.replicate 8192 (QueueEntry.mk 1 1)).length = 4096 + 4096 := by
  refine ⟨rfl, ?_, ?_, ?_⟩ <;> rw [List.length_replicate]

theorem witness_QueryThenGinDeliversTheClockSpeed :
    ∃ s : State, s.a = 1 ∧ s.sys.pending = false ∧ Represents s.inq [20, 10] :=
  ⟨{ s0 with a := 1, inq := smallQueue }, rfl, rfl, witness_InputQueueIsAStack⟩

theorem witness_LoadPlacesTheImageFromAddressZero :
    (0 : Addr).toNat < [(0xF003 : Word)].length ∧ [(0xF003 : Word)].length ≤ (1 : Addr).toNat ∧
      (4095 : Addr).toNat < (List.replicate 5000 (7 : Word)).length := by
  refine ⟨by decide, by decide, ?_⟩
  rw [List.length_replicate]
  decide

theorem witness_ImageBytesAreBigEndian : 2 * (0 : Addr).toNat + 1 < [(0x12 : Byte), 0x34].length := by decide

/-- Is a `load` after these calls refused? -/
def loadAfterIsRefused (calls : List HostCall) : Bool :=
  match runCalls (calls ++ [.load []]) (.booting cfg) with
  | .refused .loadOutsideBoot => true
  | _                         => false

/-- The second `load` of spec/47_host_entry_points.md R298, after an image that leaves memory as reset does. -/
theorem test_second_load_is_refused :
    loadAfterIsRefused [.load []] = true ∧ loadAfterIsRefused [.load [0, 0]] = true ∧ loadAfterIsRefused [] = false := by decide

theorem witness_LoadIsRefusedAfterAnyCall :
    (∃ h h' : Session, hostCall (.load []) h = .next h') ∧ (∃ h h' : Session, hostCall (.op .step) h = .next h') ∧
      ∃ h h' : Session, hostCall (.op (.pushInput 0 0)) h = .next h' :=
  ⟨⟨.booting cfg, _, rfl⟩, ⟨.launched s0, _, rfl⟩, ⟨.booting cfg, _, rfl⟩⟩

theorem witness_RunEndsAfterTheFirstStepThatMeetsRunEnd :
    ∃ (s u : State), runSteps 1 s = .next u ∧ runEndDefault u = false ∧ (0 : Nat) < 1 ∧ (1 : Nat) < 2 :=
  ⟨s0, _, rfl, rfl, by decide⟩

/-- Shut down, with a push before and after it: the last push is not performed. -/
def shutdownRun : Host.Outcome State Fault Refusal :=
  runScheduleUntil runEndDefault [.pushInput 1 7, .step, .step, .pushInput 1 9, .step] (boot cfg [0x0001, 0xF003, 0x9002] [])

/-- spec/47_host_entry_points.md R301, with a push between the steps (R299). -/
theorem test_run_with_pushes_ends_at_the_shutdown :
    (match shutdownRun with
      | .next t => t.sys.shutdownRequested && t.inq.count == 1 && t.iar == 2
      | _       => false) = true := by decide

theorem witness_ScheduledRunEndsAfterTheFirstStepThatMeetsRunEnd :
    ∃ (ops : List HostOp) (u : State), (0 : Nat) + 1 < 2 ∧ ops[0]? = some .step ∧
      runSchedule (ops.take 1) s0 = .next u ∧ runEndDefault u = false :=
  ⟨[.step, .pushInput 1 7], _, by decide, rfl, rfl, rfl⟩

end Sys2Proof.Tests
end

/-! Totality of the cycle (spec/00_scope.md R12): every instruction completes in every state, so every step and every run of
steps answers a next state. -/

namespace Sys2Proof.Machine

/-- Every instruction completes in every state, with neither a fault nor a refusal: the equation of each instruction names the
state it reaches. -/
theorem exec_total (i : Instr) (s : State) : ∃ t, exec i s = .next t :=
  match i with
  | .lda n => ⟨_, exec_lda n s⟩
  | .laa n => ⟨_, exec_laa n s⟩
  | .add n => ⟨_, exec_add n s⟩
  | .sbd n => ⟨_, exec_sbd n s⟩
  | .ada n => ⟨_, exec_ada n s⟩
  | .sba n => ⟨_, exec_sba n s⟩
  | .str n => ⟨_, exec_str n s⟩
  | .std n => ⟨_, exec_std n s⟩
  | .ssd n => ⟨_, exec_ssd n s⟩
  | .jmp n => ⟨_, exec_jmp n s⟩
  | .jiz n => ⟨_, exec_jiz n s⟩
  | .jie n => ⟨_, exec_jie n s⟩
  | .jii n => ⟨_, exec_jii n s⟩
  | .jbt n => ⟨_, exec_jbt n s⟩
  | .gin n => ⟨_, exec_gin n s⟩
  | .sot n => ⟨_, exec_sot n s⟩

theorem step_total (s : State) : ∃ t, step s = .next t := by
  obtain ⟨t, ht⟩ := exec_total (fetch s) s
  exact ⟨_, step_of_exec ht⟩

theorem step_deterministic {s t u : State} (ht : step s = .next t) (hu : step s = .next u) : u = t := by
  have h : Host.Outcome.next u = .next t := hu.symm.trans ht
  injection h

@[simp] theorem runSteps_zero (s : State) : runSteps 0 s = .next s := rfl

theorem runSteps_succ {s t : State} (h : step s = .next t) (k : Nat) : runSteps (k + 1) s = runSteps k t := by
  simp only [runSteps, h]

theorem runSteps_total (k : Nat) (s : State) : ∃ t, runSteps k s = .next t := by
  induction k generalizing s with
  | zero => exact ⟨s, runSteps_zero s⟩
  | succ k ih =>
    obtain ⟨u, hu⟩ := step_total s
    rw [runSteps_succ hu]
    exact ih u

end Sys2Proof.Machine

namespace Sys2Proof

open Machine

/-- Settles O6: each instruction completes, so a step answers one state, and runs answer by induction on the number of steps. -/
theorem everyStateHasExactlyOneNextState : Obligations.EveryStateHasExactlyOneNextState := by
  refine ⟨fun s => ?_, runSteps_total⟩
  obtain ⟨t, ht⟩ := step_total s
  exact ⟨t, ht, fun u hu => step_deterministic ht hu⟩

end Sys2Proof

/-! Memory after reset and after the boot sequence (spec/10_state.md R43, spec/47_host_entry_points.md R291): what a load from
any address leaves in every word, and that the pushes leave memory alone. -/

namespace Sys2Proof.Machine

theorem Memory.loadFrom_cons {k : Nat} (hk : k < 4096) (m : List Host.Cell) (w : Word) (image : List Word) :
    Memory.loadFrom m k (w :: image) = Memory.loadFrom (Memory.write m (BitVec.ofNat 12 k) w) (k + 1) image := if_pos hk

theorem Memory.loadFrom_end {k : Nat} (hk : 4096 ≤ k) (m : List Host.Cell) (image : List Word) :
    Memory.loadFrom m k image = m := by
  cases image with
  | nil => rfl
  | cons w image => exact if_neg (Nat.not_lt.mpr hk)

/-- Every word after a load from address `k`: below `k` the old one, from `k` on the image's, and past the image the old one. -/
theorem Memory.read_loadFrom (m : List Host.Cell) (k : Nat) (image : List Word) (n : Addr) :
    Memory.read (Memory.loadFrom m k image) n =
      if n.toNat < k then Memory.read m n else image.getD (n.toNat - k) (Memory.read m n) := by
  induction image generalizing m k with
  | nil => simp [Memory.loadFrom]
  | cons w image ih =>
    by_cases hk : k < 4096
    · have hw : (BitVec.ofNat 12 k).toNat = k := by simpa using hk
      rw [Memory.loadFrom_cons hk, ih]
      rcases Nat.lt_trichotomy n.toNat k with hlt | heq | hgt
      · have hne : n ≠ BitVec.ofNat 12 k := by rintro rfl; omega
        rw [if_pos (by omega), if_pos hlt, Memory.read_write_other _ _ hne]
      · obtain rfl : n = BitVec.ofNat 12 k := BitVec.eq_of_toNat_eq (heq.trans hw.symm)
        simp [heq]
      · have hne : n ≠ BitVec.ofNat 12 k := by rintro rfl; omega
        have hi : n.toNat - k = (n.toNat - (k + 1)) + 1 := by omega
        rw [if_neg (by omega), if_neg (by omega), Memory.read_write_other _ _ hne, hi, List.getD_cons_succ]
    · rw [Memory.loadFrom_end (Nat.le_of_not_lt hk), if_pos (by omega)]

/-- Every word after `load`: the image's, and past the image the old one. -/
@[simp] theorem State.load_read (s : State) (image : List Word) (n : Addr) :
    Memory.read (s.load image).mem n = image.getD n.toNat (Memory.read s.mem n) :=
  Memory.read_loadFrom s.mem 0 image n

@[simp] theorem State.pushInput_mem (s : State) (dev data : Word) : (s.pushInput dev data).mem = s.mem := rfl

theorem State.resetWith_read (cfg : Config) (n : Addr) : Memory.read (State.resetWith cfg).mem n = 0 :=
  Memory.read_nil n

/-- The pushes of the boot sequence leave memory as the load left it. -/
theorem boot_mem (cfg : Config) (image : List Word) (pushes : List QueueEntry) :
    (boot cfg image pushes).mem = ((State.resetWith cfg).load image).mem := by
  unfold boot
  generalize (State.resetWith cfg).load image = s
  induction pushes generalizing s with
  | nil => rfl
  | cons e es ih => exact ih (s.pushInput e.deviceId e.data)

end Sys2Proof.Machine

namespace Sys2Proof

open Machine

/-- Settles O38: the pushes keep memory, and each word of a load onto zero memory is the image's word or 0. -/
theorem memoryAfterResetAndBoot : Obligations.MemoryAfterResetAndBoot := by
  refine ⟨State.resetWith_read _, fun cfg image pushes n => ⟨State.resetWith_read cfg n, ?_⟩⟩
  rw [boot_mem, State.load_read, State.resetWith_read]

end Sys2Proof

/-! The image in bytes (spec/20_memory.md R65): byte pair `k` of the input is word `k` of the image, high byte first. -/

namespace Sys2Proof.Machine

theorem wordsOfBytes_getElem? (bytes : List Byte) (k : Nat) (h : 2 * k + 1 < bytes.length) :
    (wordsOfBytes bytes)[k]? = some (wordOfBytes bytes[2 * k] bytes[2 * k + 1]) := by
  induction bytes using wordsOfBytes.induct generalizing k with
  | case1 hi lo rest ih =>
    cases k with
    | zero => rfl
    | succ k =>
      have hk : 2 * k + 1 < rest.length := by
        simp only [List.length_cons] at h
        omega
      exact ih k hk
  | case2 b => simp at h
  | case3 => simp at h

/-- After the load of an image in bytes, the word at `k` is byte pair `k`, whatever memory held before. -/
theorem State.load_wordsOfBytes_read (s : State) (bytes : List Byte) (k : Addr) (h : 2 * k.toNat + 1 < bytes.length) :
    Memory.read (s.load (wordsOfBytes bytes)).mem k = wordOfBytes bytes[2 * k.toNat] bytes[2 * k.toNat + 1] := by
  rw [State.load_read, List.getD_eq_getElem?_getD, wordsOfBytes_getElem? bytes k.toNat h, Option.getD_some]

theorem opcodeOf_wordOfBytes_toNat (hi lo : Byte) : (opcodeOf (wordOfBytes hi lo)).toNat = hi.toNat / 16 := by
  rw [opcodeOf_toNat, wordOfBytes_toNat]
  have hlo : lo.toNat < 256 := lo.isLt
  omega

end Sys2Proof.Machine

namespace Sys2Proof

open Machine

/-- Settles O54: the loaded word is its byte pair, whose value and opcode are those of `wordOfBytes`. -/
theorem imageBytesAreBigEndian : Obligations.ImageBytesAreBigEndian := by
  intro s bytes k h
  rw [opcode_decodeWord, State.load_wordsOfBytes_read s bytes k h]
  exact ⟨wordOfBytes_toNat _ _, opcodeOf_wordOfBytes_toNat _ _⟩

end Sys2Proof

/-! Decoding and encoding (spec/30_encoding.md R90, R91): the two are inverse to each other, on words and on image bytes, and a
word is determined by its two fields. -/

namespace Sys2Proof

/-- "The word `w` of an instruction with opcode `p` and operand `n` is `w = p * 4096 + n`" (R90). -/
theorem encodeWord_toNat (i : Instr) : (encodeWord i).toNat = i.opcode.toNat * 4096 + i.operand.toNat :=
  fields_toNat i.opcode i.operand

/-- The fields of an instruction's word are the instruction's own, and its opcode selects its own arm of the decoder. -/
@[simp] theorem decodeWord_encodeWord (i : Instr) : decodeWord (encodeWord i) = i := by
  unfold decodeWord
  rw [opcodeOf_encodeWord, operandOf_encodeWord]
  cases i <;> rfl

@[simp] theorem encodeWord_decodeWord (w : Word) : encodeWord (decodeWord w) = w := by
  unfold encodeWord
  rw [opcode_decodeWord, operand_decodeWord]
  exact word_fields w

theorem decodeWord_injective : Function.Injective decodeWord :=
  Function.LeftInverse.injective encodeWord_decodeWord

theorem decodeBytes_cons_cons (hi lo : Byte) (rest : List Byte) :
    decodeBytes (hi :: lo :: rest) = .ok (decodeWord (wordOfBytes hi lo), rest) := rfl

theorem decodeBytes_encodeBytes_append (i : Instr) (rest : List Byte) :
    decodeBytes (encodeBytes i ++ rest) = .ok (i, rest) :=
  calc decodeBytes (encodeBytes i ++ rest)
      = .ok (decodeWord (wordOfBytes (highByte (encodeWord i)) (lowByte (encodeWord i))), rest) :=
        decodeBytes_cons_cons _ _ rest
    _ = .ok (i, rest) := by rw [wordOfBytes_bytes, decodeWord_encodeWord]

/-- A word decodes to an opcode and an operand exactly when it is the two put together. -/
theorem decodeWord_fields_iff (w : Word) (p : OpcodeBits) (n : Addr) :
    (decodeWord w).opcode = p ∧ (decodeWord w).operand = n ↔ w = (p ++ n : BitVec (4 + 12)) := by
  rw [opcode_decodeWord, operand_decodeWord]
  constructor
  · rintro ⟨rfl, rfl⟩
    exact (word_fields w).symm
  · rintro rfl
    exact ⟨opcodeOf_append p n, operandOf_append p n⟩

/-- "`w >> 12`" (R91). -/
theorem opcode_decodeWord_toNat (w : Word) : (decodeWord w).opcode.toNat = w.toNat >>> 12 := by
  rw [opcode_decodeWord, opcodeOf_toNat, Nat.shiftRight_eq_div_pow]

/-- "`w & 0xFFF`" (R91): the mask keeps the remainder by `2 ^ 12`. -/
theorem operand_decodeWord_toNat (w : Word) : (decodeWord w).operand.toNat = w.toNat &&& 0xFFF := by
  rw [operand_decodeWord, operandOf_toNat]
  exact (Nat.and_two_pow_sub_one_eq_mod w.toNat 12).symm

/-- Settles O3: encoding and decoding undo each other, and an instruction's two bytes make up its word. -/
theorem decodeAndEncodeAgree : Obligations.DecodeAndEncodeAgree :=
  ⟨fun i _ => ⟨encodeWord_toNat i, decodeWord_encodeWord i, decodeBytes_encodeBytes_append i⟩, encodeWord_decodeWord⟩

/-- Settles O2: encoding undoes decoding, and the one word of a pair is its two fields put together. -/
theorem decodingIsTotalAndInjective : Obligations.DecodingIsTotalAndInjective := by
  refine ⟨fun w => ⟨opcode_decodeWord_toNat w, operand_decodeWord_toNat w⟩, fun _ _ h => decodeWord_injective h, fun p n => ?_⟩
  exact ⟨_, (decodeWord_fields_iff _ p n).mpr rfl, fun w hw => (decodeWord_fields_iff w p n).mp hw⟩

end Sys2Proof

/-! The advance (spec/40_step_cycle.md R134, R135): where `IAR` points after an instruction, and so after a step. -/

namespace Sys2Proof.Machine

/-- "wrap to 0 if it would exceed 4095" (R135). -/
theorem addr_add_one_toNat (n : Addr) : (n + 1).toNat = (n.toNat + 1) % 4096 :=
  BitVec.toNat_add n 1

/-- A jump's target and increment are those of `jumpIf` on its own condition; every other instruction ends by advancing from the
address it was fetched from. -/
theorem exec_iar {i : Instr} {s t : State} (h : exec i s = .next t) :
    t.iar = if jumpTaken i s then i.operand else s.iar + 1 := by
  cases i with
  | jmp n | jiz n | jie n | jii n | jbt n =>
    injection h with h
    rw [← h, State.jumpIf_iar]
    rfl
  | sot n =>
    injection h with h
    rw [← h, State.advance_iar, outputDispatch_iar]
    rfl
  | lda n | laa n | add n | sbd n | ada n | sba n | str n | std n | ssd n | gin n =>
    injection h with h
    rw [← h]
    rfl

/-- The trace entry that ends a step leaves `IAR` where the fetched instruction put it. -/
theorem step_iar {s t : State} (h : step s = .next t) :
    t.iar = if jumpTaken (fetch s) s then (fetch s).operand else s.iar + 1 := by
  obtain ⟨u, hu, rfl⟩ := exec_of_step h
  rw [logStep_eq, State.setTrace_iar]
  exact exec_iar hu

end Sys2Proof.Machine

namespace Sys2Proof

open Machine

/-- Settles O5: every step answers, with the `IAR` of `step_iar`, whose increment is one modulo 4096. -/
theorem iarAfterEveryStep : Obligations.IarAfterEveryStep := by
  intro s
  obtain ⟨t, ht⟩ := step_total s
  refine ⟨t, ht, ?_⟩
  rw [step_iar ht, apply_ite BitVec.toNat, addr_add_one_toNat]

end Sys2Proof

/-! `RunALU()` (spec/41_alu.md R151, R152): its results in each mode, and the 17-bit sum behind mode `Add`. -/

namespace Sys2Proof.Machine

/-- The three fields `RunALU()` writes are what R151 asks of any state that holds its results. -/
theorem aluRan_of_fields {mode : AluMode} {a b c : Word} {carry : Bool} {t : State} (hc : t.c = aluResult mode a b c)
    (hcarry : t.carry = aluCarry mode a b carry) (hzero : t.zero = (aluResult mode a b c == 0#16)) :
    AluRan mode a b c carry t := by
  constructor
  · rw [hc, hcarry]
    cases mode with
    | add => exact ⟨aluResult_add_toNat a b c, decide_eq_true_iff⟩
    | subtract => exact ⟨aluResult_subtract_toNat a b c, decide_eq_true_iff⟩
    | other => exact ⟨rfl, rfl⟩
  · rw [hzero, hc, beq_iff_eq, BitVec.toNat_eq]
    rfl

theorem State.aluRan_runAlu (s : State) : AluRan s.aluMode s.a s.b s.c s.carry s.runAlu :=
  aluRan_of_fields s.runAlu_c s.runAlu_carry s.runAlu_zero

/-- Two words added in 17 bits do not wrap. -/
theorem sum17_toNat (a b : Word) : (a.setWidth 17 + b.setWidth 17).toNat = a.toNat + b.toNat := by
  have ha := a.isLt
  have hb := b.isLt
  rw [BitVec.toNat_add, BitVec.toNat_setWidth_of_le (by decide), BitVec.toNat_setWidth_of_le (by decide)]
  omega

/-- Bit 16 of the 17-bit sum is its sign bit, so it tells whether the sum reaches `2 ^ 16`. -/
theorem sum17_bit16 (a b : Word) :
    (a.setWidth 17 + b.setWidth 17).getLsbD 16 = decide (65536 ≤ a.toNat + b.toNat) := by
  have hmsb := BitVec.msb_eq_decide (a.setWidth 17 + b.setWidth 17)
  rwa [sum17_toNat, BitVec.msb_eq_getLsbD_last] at hmsb

theorem sum17_low (a b : Word) : (a.setWidth 17 + b.setWidth 17).setWidth 16 = a + b := by
  apply BitVec.eq_of_toNat_eq
  rw [BitVec.toNat_setWidth, sum17_toNat, BitVec.toNat_add]

/-- A sum of two words is 0 in 16 bits exactly when it is 0 or just does not fit. -/
theorem add_eq_zero_iff_toNat (a b : Word) : a + b = 0#16 ↔ a.toNat + b.toNat = 0 ∨ a.toNat + b.toNat = 65536 := by
  have ha := a.isLt
  have hb := b.isLt
  rw [BitVec.toNat_eq, BitVec.toNat_add, BitVec.toNat_zero]
  omega

theorem toNat_add_toNat_eq_zero_iff (a b : Word) : a.toNat + b.toNat = 0 ↔ a = 0 ∧ b = 0 := by
  rw [Nat.add_eq_zero_iff, BitVec.toNat_eq, BitVec.toNat_eq]
  rfl

section
variable {s : State} (hmode : s.aluMode = .add)
include hmode

theorem State.runAlu_c_of_add : s.runAlu.c = s.a + s.b := by
  rw [State.runAlu_c, hmode, aluResult_add_eq]

theorem State.runAlu_carry_of_add : s.runAlu.carry = decide (65536 ≤ s.a.toNat + s.b.toNat) := by
  rw [State.runAlu_carry, hmode, aluCarry_add]

theorem State.runAlu_zero_of_add : s.runAlu.zero = (s.a + s.b == 0#16) := by
  rw [State.runAlu_zero, hmode, aluResult_add_eq]

theorem State.runAlu_zero_iff_of_add :
    s.runAlu.zero = true ↔ s.a.toNat + s.b.toNat = 0 ∨ s.a.toNat + s.b.toNat = 65536 := by
  rw [State.runAlu_zero_of_add hmode, beq_iff_eq, add_eq_zero_iff_toNat]

end

end Sys2Proof.Machine

namespace Sys2Proof

open Machine

/-- Settles O10: the ALU's result and carry are those of R151 in each mode, and putting the three old fields back undoes it. -/
theorem runAluComputesAsTheRuleWrites : Obligations.RunAluComputesAsTheRuleWrites :=
  fun s => ⟨s.aluRan_runAlu, rfl⟩

/-- Settles O11: the 17-bit sum is the sum of the two numbers, and the worked example is one instance of mode `Add`. -/
theorem addGivesTheSeventeenBitSum : Obligations.AddGivesTheSeventeenBitSum := by
  refine ⟨fun s hmode => ⟨?low, ?bit16, ?overflow, ?zero, ?zeroWords⟩, fun s hmode ha hb => ?worked⟩
  case low => rw [State.runAlu_c_of_add hmode, sum17_low]
  case bit16 => rw [State.runAlu_carry_of_add hmode, sum17_bit16]
  case overflow => rw [State.runAlu_carry_of_add hmode, decide_eq_true_iff, Nat.not_lt]
  case zero => exact State.runAlu_zero_iff_of_add hmode
  case zeroWords => rw [State.runAlu_zero_iff_of_add hmode, toNat_add_toNat_eq_zero_iff]
  case worked =>
    rw [State.runAlu_c_of_add hmode, State.runAlu_carry_of_add hmode, State.runAlu_zero_of_add hmode, ha, hb]
    decide

end Sys2Proof

/-! Loading `A` (spec/42_load_a.md R170, R171), with the rules it shares with every instruction that ends in `RunALU()`: the
instruction's word, the immediate's value, and what `RunALU()` and the advance do to the state before them. -/

namespace Sys2Proof

/-- An instruction with opcode `p` has the word `p * 4096` plus its operand (R90), which decodes to it (R91). -/
theorem hasWord_of_opcode {i : Instr} (p : OpcodeBits) (hp : i.opcode = p) {base : Nat} (hbase : p.toNat * 4096 = base) :
    HasWord i (base + i.operand.toNat) := by
  rw [← hbase, ← hp, ← encodeWord_toNat]
  refine ⟨rfl, ?_⟩
  rw [BitVec.ofNat_toNat, BitVec.setWidth_eq, decodeWord_encodeWord]

end Sys2Proof

namespace Sys2Proof.Machine

/-- An immediate is zero-extended, so its value is the operand's (R92). -/
@[simp] theorem immediate_toNat (n : Addr) : (immediate n).toNat = n.toNat :=
  BitVec.toNat_setWidth_of_le (by decide)

theorem State.aluRan_runAlu_advance (s : State) : AluRan s.aluMode s.a s.b s.c s.carry s.runAlu.advance :=
  aluRan_of_fields s.runAlu_c s.runAlu_carry s.runAlu_zero

/-- Outside the registers, the flags and the mode, `RunALU()` and the advance change `IAR` alone. -/
theorem State.runAlu_advance_frame (s : State) :
    KeepsMemory s s.runAlu.advance ∧ KeepsIo s s.runAlu.advance ∧ KeepsLogAndConfig s s.runAlu.advance ∧
      Advances s s.runAlu.advance :=
  ⟨fun _ => rfl, ⟨rfl, rfl⟩, ⟨rfl, rfl⟩, addr_add_one_toNat s.iar⟩

/-- What the loads of `A` have in common, whatever word they load: the ALU runs on the new `A` and the old `B` in the mode in
force, and nothing but `A`, the ALU's results and `IAR` changes. -/
theorem State.setA_runAlu_advance_spec (s : State) (v : Word) {t : State} (ht : t = (s.setA v).runAlu.advance) :
    t.a = v ∧ AluRan s.aluMode t.a s.b s.c s.carry t ∧
      t.b = s.b ∧ t.inputAvailable = s.inputAvailable ∧ t.aluMode = s.aluMode ∧
      KeepsMemory s t ∧ KeepsIo s t ∧ KeepsLogAndConfig s t ∧ Advances s t := by
  subst ht
  exact ⟨rfl, (s.setA v).aluRan_runAlu_advance, rfl, rfl, rfl, (s.setA v).runAlu_advance_frame⟩

end Sys2Proof.Machine

namespace Sys2Proof

open Machine

/-- Settles O14: `LDA` is the load of `A` whose word is the immediate. -/
theorem ldaLoadsImmediateAndRunsAlu : Obligations.LdaLoadsImmediateAndRunsAlu := by
  intro n s
  obtain ⟨ha, hrest⟩ := s.setA_runAlu_advance_spec (immediate n) rfl
  exact ⟨hasWord_of_opcode 0 rfl (by decide), _, exec_lda n s, by rw [ha, immediate_toNat], hrest⟩

/-- Settles O15: `LAA` is the load of `A` whose word is the one in memory. -/
theorem laaLoadsMemoryWordAndRunsAlu : Obligations.LaaLoadsMemoryWordAndRunsAlu :=
  fun n s => ⟨hasWord_of_opcode 1 rfl (by decide), _, exec_laa n s, s.setA_runAlu_advance_spec (Memory.read s.mem n) rfl⟩

end Sys2Proof

/-! Arithmetic (spec/43_arithmetic.md R180 to R183): the four instructions load `B`, set the mode and run the ALU, so one rule
about `State.arithmetic` serves them all. -/

namespace Sys2Proof.Machine

/-- What `ADD`, `SBD`, `ADA` and `SBA` have in common, whatever the mode and the word they load: the ALU runs on the old `A` and
the new `B` in the new mode, and nothing but `B`, the mode, the ALU's results and `IAR` changes. -/
theorem State.arithmetic_spec (s : State) (mode : AluMode) (v : Word) {t : State} (ht : t = s.arithmetic mode v) :
    t.b = v ∧ t.aluMode = mode ∧ AluRan mode s.a t.b s.c s.carry t ∧
      t.a = s.a ∧ t.inputAvailable = s.inputAvailable ∧
      KeepsMemory s t ∧ KeepsIo s t ∧ KeepsLogAndConfig s t ∧ Advances s t := by
  subst ht
  exact ⟨rfl, rfl, ((s.setB v).setMode mode).aluRan_runAlu_advance, rfl, rfl,
    ((s.setB v).setMode mode).runAlu_advance_frame⟩

end Sys2Proof.Machine

namespace Sys2Proof

open Machine

/-- Settles O16: `ADD` is the arithmetic in mode `Add` on the immediate. -/
theorem addAddsImmediate : Obligations.AddAddsImmediate := by
  intro n s
  obtain ⟨hb, hrest⟩ := s.arithmetic_spec .add (immediate n) rfl
  exact ⟨hasWord_of_opcode 2 rfl (by decide), s.arithmetic .add (immediate n),
    exec_add n s, by rw [hb, immediate_toNat], hrest⟩

/-- Settles O17: `SBD` is the arithmetic in mode `Subtract` on the immediate. -/
theorem sbdSubtractsImmediate : Obligations.SbdSubtractsImmediate := by
  intro n s
  obtain ⟨hb, hrest⟩ := s.arithmetic_spec .subtract (immediate n) rfl
  exact ⟨hasWord_of_opcode 3 rfl (by decide), s.arithmetic .subtract (immediate n),
    exec_sbd n s, by rw [hb, immediate_toNat], hrest⟩

/-- Settles O18: `ADA` is the arithmetic in mode `Add` on the word in memory. -/
theorem adaAddsMemoryWord : Obligations.AdaAddsMemoryWord :=
  fun n s => ⟨hasWord_of_opcode 4 rfl (by decide), _, exec_ada n s, s.arithmetic_spec .add (Memory.read s.mem n) rfl⟩

/-- Settles O19: `SBA` is the arithmetic in mode `Subtract` on the word in memory. -/
theorem sbaSubtractsMemoryWord : Obligations.SbaSubtractsMemoryWord :=
  fun n s => ⟨hasWord_of_opcode 5 rfl (by decide), _, exec_sba n s, s.arithmetic_spec .subtract (Memory.read s.mem n) rfl⟩

end Sys2Proof

/-! Stores and the bitwise instructions (spec/44_store_and_bitwise.md R200, R201): the word a store leaves with the bytes it
keeps, the AND with complement bit by bit, and the ALU in mode `Other`, where it derives `zero` alone. -/

namespace Sys2Proof.Machine

/-- A state whose memory is a word write on the old one has that word at the address, and every byte outside it as before. -/
theorem stored_of_mem {s t : State} {n : Addr} {v : Word} (h : t.mem = Memory.write s.mem n v) :
    Memory.read t.mem n = v ∧ KeepsMemoryBut n s t := by
  constructor
  · rw [h, Memory.read_write_same]
  · intro k hhigh hlow
    rw [h, Memory.byteAt_write_other s.mem n v hhigh hlow]

/-- "`A & (~B)`" bit by bit (R201). -/
theorem and_not_getLsbD (a b : Word) {i : Nat} (hi : i < 16) : (a &&& ~~~b).getLsbD i = (a.getLsbD i && !b.getLsbD i) := by
  rw [BitVec.getLsbD_and, BitVec.getLsbD_not, decide_eq_true hi, Bool.true_and]

/-- "mode Other: C and carry unchanged; zero <- (C = 0)" (R201, R202), also after the advance. -/
theorem State.runAlu_advance_of_other {s t : State} (hmode : s.aluMode = .other) (ht : t = s.runAlu.advance) :
    t.c = s.c ∧ t.carry = s.carry ∧ (t.zero = true ↔ t.c.toNat = 0) := by
  have hran := s.aluRan_runAlu_advance
  rw [hmode, ← ht] at hran
  obtain ⟨⟨hc, hcarry⟩, hzero⟩ := hran
  exact ⟨hc, hcarry, hzero⟩

/-- A store through `C` in mode `Other`, whatever the word: `C` and the word at the address are that word, `zero` follows it, and
nothing else but the mode and `IAR` changes. -/
theorem State.storeThroughC_spec (s : State) (n : Addr) (v : Word) {t : State}
    (ht : t = (((s.setC v).writeWord n v).setMode .other).runAlu.advance) :
    t.c = v ∧ Memory.read t.mem n = t.c ∧ KeepsMemoryBut n s t ∧
      (t.zero = true ↔ t.c.toNat = 0) ∧ t.aluMode = .other ∧
      t.a = s.a ∧ t.b = s.b ∧ t.carry = s.carry ∧ t.inputAvailable = s.inputAvailable ∧
      KeepsIo s t ∧ KeepsLogAndConfig s t ∧ Advances s t := by
  obtain ⟨hc, hcarry, hzero⟩ :=
    State.runAlu_advance_of_other (s := ((s.setC v).writeWord n v).setMode .other) rfl ht
  obtain ⟨hread, hkeeps⟩ := stored_of_mem (s := s) (n := n) (v := v) (congrArg State.mem ht)
  subst ht
  exact ⟨hc, hread.trans hc.symm, hkeeps, hzero, rfl, rfl, rfl, hcarry, rfl,
    ⟨rfl, rfl⟩, ⟨rfl, rfl⟩, addr_add_one_toNat s.iar⟩

end Sys2Proof.Machine

namespace Sys2Proof

open Machine

/-- Settles O20: `STR` is a word write of `C` and the advance. -/
theorem strStoresC : Obligations.StrStoresC := by
  intro n s
  obtain ⟨hread, hkeeps⟩ := stored_of_mem (s := s) (t := (s.writeWord n s.c).advance) rfl
  exact ⟨hasWord_of_opcode 6 rfl (by decide), _, exec_str n s, hread, hkeeps,
    ⟨rfl, rfl, rfl⟩, ⟨rfl, rfl, rfl⟩, rfl, ⟨rfl, rfl⟩, ⟨rfl, rfl⟩, addr_add_one_toNat s.iar⟩

/-- Settles O21: `STD` stores the AND with complement through `C`. -/
theorem stdStoresAWithoutTheBitsOfB : Obligations.StdStoresAWithoutTheBitsOfB := by
  intro n s
  obtain ⟨hc, hrest⟩ := s.storeThroughC_spec n (s.a &&& ~~~s.b) rfl
  exact ⟨hasWord_of_opcode 7 rfl (by decide), _, exec_std n s,
    fun i hi => by rw [hc, and_not_getLsbD s.a s.b hi], hrest⟩

end Sys2Proof

/-! Jumps (spec/45_jumps.md R220 to R222): every jump is `jumpIf` on its own condition, so its two outcomes and its frame are
proved once for any condition. -/

namespace Sys2Proof.Machine

/-- A jump taken: "`IAR = operand`; suppress auto-increment" (R220). -/
theorem State.jumpIf_iar_of_true (s : State) {cond : Bool} (n : Addr) (h : cond = true) : (s.jumpIf cond n).iar = n := by
  rw [jumpIf_iar, if_pos h]

/-- A jump not taken keeps the increment of R134, with its wrap. -/
theorem State.jumpIf_advances_of_false (s : State) {cond : Bool} (n : Addr) (h : cond = false) : Advances s (s.jumpIf cond n) := by
  subst h
  exact addr_add_one_toNat s.iar

/-- Taken or not, a jump changes `IAR` alone. -/
theorem State.jumpIf_frame (s : State) (cond : Bool) (n : Addr) :
    KeepsRegisters s (s.jumpIf cond n) ∧ KeepsFlags s (s.jumpIf cond n) ∧ (s.jumpIf cond n).aluMode = s.aluMode ∧
      KeepsMemory s (s.jumpIf cond n) ∧ KeepsIo s (s.jumpIf cond n) ∧ KeepsLogAndConfig s (s.jumpIf cond n) :=
  ⟨⟨rfl, rfl, rfl⟩, ⟨rfl, rfl, rfl⟩, rfl, fun _ => rfl, ⟨rfl, rfl⟩, ⟨rfl, rfl⟩⟩

end Sys2Proof.Machine

namespace Sys2Proof

open Machine

/-- Settles O23: `JMP` is the jump whose condition always holds. -/
theorem jmpJumpsAlways : Obligations.JmpJumpsAlways :=
  fun n s => ⟨hasWord_of_opcode 9 rfl (by decide), _, exec_jmp n s, s.jumpIf_iar_of_true n rfl, s.jumpIf_frame true n⟩

/-- Settles O24: `JIZ` is the jump on `zero`. -/
theorem jizJumpsIfZero : Obligations.JizJumpsIfZero :=
  fun n s => ⟨hasWord_of_opcode 10 rfl (by decide), _, exec_jiz n s,
    s.jumpIf_iar_of_true n, s.jumpIf_advances_of_false n, s.jumpIf_frame s.zero n⟩

/-- Settles O25: `JIE` is the jump on `carry`. -/
theorem jieJumpsIfCarry : Obligations.JieJumpsIfCarry :=
  fun n s => ⟨hasWord_of_opcode 11 rfl (by decide), _, exec_jie n s,
    s.jumpIf_iar_of_true n, s.jumpIf_advances_of_false n, s.jumpIf_frame s.carry n⟩

end Sys2Proof

/-! Output (spec/46_io.md R254, R260): `SOT` is the output handler called with all of `A`, then the advance, so what it keeps and
where it does nothing follow from the handler's own laws. -/

namespace Sys2Proof.Machine

/-- A new queue and a new device, whatever they are, then the advance: nothing else but `IAR` changes. -/
theorem State.setInq_setSys_advance_spec (s : State) (q : InputQueue) (d : SystemDevice) {t : State}
    (ht : t = ((s.setInq q).setSys d).advance) :
    t.inq = q ∧ t.sys = d ∧ KeepsRegisters s t ∧ KeepsFlags s t ∧ t.aluMode = s.aluMode ∧
      KeepsMemory s t ∧ KeepsLogAndConfig s t ∧ Advances s t := by
  subst ht
  exact ⟨rfl, rfl, ⟨rfl, rfl, rfl⟩, ⟨rfl, rfl, rfl⟩, rfl, fun _ => rfl, ⟨rfl, rfl⟩, addr_add_one_toNat s.iar⟩

/-- Where the output handler does nothing, `SOT` is the advance alone. -/
theorem exec_sot_of_dispatch_eq_self {n : Addr} {s : State} (h : outputDispatch s.a n s = s) :
    exec (.sot n) s = .next s.advance := by
  rw [exec_sot, h]

end Sys2Proof.Machine

namespace Sys2Proof

open Machine

/-- Settles O30: an output is a change of the queue and the device alone (`outputDispatch_frame`), then the advance. -/
theorem sotDispatchesOnAAndKeepsTheRest : Obligations.SotDispatchesOnAAndKeepsTheRest := by
  intro n s
  have hframe := congrArg State.advance (outputDispatch_frame s.a n s)
  exact ⟨hasWord_of_opcode 15 rfl (by decide), _, exec_sot n s, s.setInq_setSys_advance_spec _ _ hframe⟩

/-- Settles O31: the handler does nothing for an id that is not the system device's. -/
theorem sotToOtherDevicesDoesNothing : Obligations.SotToOtherDevicesDoesNothing :=
  fun n s ha => ⟨_, exec_sot_of_dispatch_eq_self (outputDispatch_other ha n s), rfl, addr_add_one_toNat s.iar⟩

end Sys2Proof

/-! The state after an instruction and after a step, as functions: every instruction completes (`exec_total`), so the answers of
`exec` and `step` are these states, and each field is followed over all instructions once. -/

namespace Sys2Proof.Machine

/-- The state `i` leads to. -/
def afterInstr (i : Instr) (s : State) : State :=
  match exec i s with
  | .next t    => t
  | .fault _   => s
  | .refused _ => s

/-- The state one step leads to. -/
def afterStep (s : State) : State := logStep (fetch s) s (afterInstr (fetch s) s)

theorem exec_eq_afterInstr (i : Instr) (s : State) : exec i s = .next (afterInstr i s) := by
  obtain ⟨t, ht⟩ := exec_total i s
  simp only [afterInstr, ht]

theorem step_eq_afterStep (s : State) : step s = .next (afterStep s) :=
  step_of_exec (exec_eq_afterInstr (fetch s) s)

theorem eq_afterStep_of_step {s t : State} (h : step s = .next t) : t = afterStep s :=
  step_deterministic (step_eq_afterStep s) h

/-- `k` steps are `k` turns of `afterStep`. -/
theorem runSteps_succ_eq (k : Nat) (s : State) : runSteps (k + 1) s = runSteps k (afterStep s) :=
  runSteps_succ (step_eq_afterStep s) k

theorem afterStep_eq_setTrace (s : State) :
    afterStep s = (afterInstr (fetch s) s).setTrace
      ((afterInstr (fetch s) s).trace.append (stepEntry (fetch s) s (afterInstr (fetch s) s))) := rfl

section
variable {i : Instr} {s : State}

theorem afterInstr_trace : (afterInstr i s).trace = s.trace := by
  cases i with
  | sot n => exact outputDispatch_trace s.a n s
  | _ => rfl

theorem afterInstr_cfg : (afterInstr i s).cfg = s.cfg := by
  cases i with
  | sot n => exact outputDispatch_cfg s.a n s
  | _ => rfl

theorem afterInstr_inputAvailable : (afterInstr i s).inputAvailable = s.inputAvailable := by
  cases i with
  | sot n => exact outputDispatch_inputAvailable s.a n s
  | _ => rfl

theorem afterInstr_aluMode : (afterInstr i s).aluMode = modeAfter i s.aluMode := by
  cases i with
  | sot n => exact outputDispatch_aluMode s.a n s
  | _ => rfl

theorem afterInstr_a (h : loadsA i = false) : (afterInstr i s).a = s.a := by
  cases i with
  | lda n | laa n => cases h
  | sot n => exact outputDispatch_a s.a n s
  | _ => rfl

theorem afterInstr_b (h : loadsB i = false) : (afterInstr i s).b = s.b := by
  cases i with
  | add n | sbd n | ada n | sba n => cases h
  | sot n => exact outputDispatch_b s.a n s
  | _ => rfl

/-- A load of `A` runs the ALU in the mode in force, which keeps `C` in mode `Other` alone (spec/10_state.md R23). -/
theorem afterInstr_c (h : writesC i s.aluMode = false) : (afterInstr i s).c = s.c := by
  cases i with
  | lda n | laa n =>
    have hmode : s.aluMode = .other := by simpa [writesC] using h
    show aluResult s.aluMode _ _ s.c = s.c
    rw [hmode, aluResult_other]
  | add n | sbd n | ada n | sba n | std n | ssd n => cases h
  | sot n => exact outputDispatch_c s.a n s
  | _ => rfl

/-- A load of `A` runs the ALU in the mode in force, and `STD` and `SSD` in mode `Other`, which keeps carry (spec/10_state.md R30). -/
theorem afterInstr_carry (h : writesCarry i s.aluMode = false) : (afterInstr i s).carry = s.carry := by
  cases i with
  | lda n | laa n =>
    have hmode : s.aluMode = .other := by simpa [writesCarry] using h
    show aluCarry s.aluMode _ _ s.carry = s.carry
    rw [hmode, aluCarry_other]
  | add n | sbd n | ada n | sba n => cases h
  | sot n => exact outputDispatch_carry s.a n s
  | _ => rfl

theorem afterInstr_zero (h : runsAlu i = false) : (afterInstr i s).zero = s.zero := by
  cases i with
  | lda n | laa n | add n | sbd n | ada n | sba n | std n | ssd n => cases h
  | sot n => exact outputDispatch_zero s.a n s
  | _ => rfl

/-- Nothing after `RunALU()` writes `C` or zero in the instructions that call it (spec/41_alu.md R155). -/
theorem afterInstr_zero_of_runsAlu (h : runsAlu i = true) : (afterInstr i s).zero = ((afterInstr i s).c == 0#16) := by
  cases i with
  | lda n | laa n | add n | sbd n | ada n | sba n | std n | ssd n => rfl
  | str n | jmp n | jiz n | jie n | jii n | jbt n | gin n | sot n => cases h

theorem writesC_of_not_runsAlu (h : runsAlu i = false) (mode : AluMode) : writesC i mode = false := by
  cases i with
  | lda n | laa n | add n | sbd n | ada n | sba n | std n | ssd n => cases h
  | _ => rfl

end

/-- Memory `m` with the word stored, if one is. -/
def Memory.store (m : List Host.Cell) : Option (Addr × Word) → List Host.Cell
  | none        => m
  | some (n, v) => Memory.write m n v

section
variable {i : Instr} {s : State}

theorem afterInstr_mem : (afterInstr i s).mem = Memory.store s.mem (storeOf i s) := by
  cases i with
  | sot n => exact outputDispatch_mem s.a n s
  | _ => rfl

theorem operand_of_storeOf {n : Addr} {v : Word} (h : storeOf i s = some (n, v)) : n = i.operand := by
  cases i with
  | str m | std m | gin m =>
    simp only [storeOf, Option.some.injEq, Prod.mk.injEq] at h
    exact h.1.symm
  | _ => cases h

theorem afterInstr_inq (h : touchesQueue i = false) : (afterInstr i s).inq = s.inq := by
  cases i with
  | gin n | sot n => cases h
  | _ => rfl

/-- An output to another device leaves the system device alone, and every other instruction does (spec/46_io.md R258). -/
theorem afterInstr_sys (h : outputsToSystem i s = false) : (afterInstr i s).sys = s.sys := by
  cases i with
  | sot n =>
    have ha : s.a ≠ systemDeviceId := of_decide_eq_false h
    exact congrArg (·.advance.sys) (outputDispatch_other ha n s)
  | _ => rfl

theorem Memory.wf_store {m : List Host.Cell} (h : Memory.wf m) (w : Option (Addr × Word)) : Memory.wf (Memory.store m w) := by
  cases w with
  | none => exact h
  | some w => exact Memory.wf_write h w.1 w.2

theorem afterInstr_inq_wf (h : s.inq.wf) : (afterInstr i s).inq.wf := by
  cases i with
  | gin n => exact InputQueue.wf_pop h
  | sot n => exact outputDispatch_wf s.a n s h
  | _ => exact h

theorem afterInstr_staged (h : s.sys.pending = true → s.sys.command = 1) :
    (afterInstr i s).sys.pending = true → (afterInstr i s).sys.command = 1 := by
  cases i with
  | sot n => exact outputDispatch_staged s.a n s h
  | _ => exact h

end

/-- The log after a step is the old one with the step's entry. -/
theorem afterStep_trace (s : State) :
    (afterStep s).trace = s.trace.append (stepEntry (fetch s) s (afterInstr (fetch s) s)) := by
  rw [afterStep_eq_setTrace, State.setTrace_trace, afterInstr_trace]

end Sys2Proof.Machine

namespace Sys2Proof

open Machine

/-- Settles O13: an instruction that runs the ALU derives zero from the `C` it leaves, and every other one keeps both. -/
theorem zeroFlagFollowsC : Obligations.ZeroFlagFollowsC := by
  intro s
  have hruns (h : runsAlu (fetch s) = true) : (afterStep s).zero = true ↔ (afterStep s).c = 0#16 :=
    (Bool.eq_iff_iff.mp (afterInstr_zero_of_runsAlu h)).trans beq_iff_eq
  refine ⟨afterStep s, step_eq_afterStep s, hruns, fun hs => ?_⟩
  cases h : runsAlu (fetch s) with
  | true => exact hruns h
  | false =>
    show (afterInstr (fetch s) s).zero = true ↔ (afterInstr (fetch s) s).c = 0#16
    rw [afterInstr_zero h, afterInstr_c (writesC_of_not_runsAlu h s.aluMode)]
    exact hs

/-- Memory, the queue and the log are written through operations that keep the canonical form, and the device's protocol stages
command 1 alone. -/
theorem Inv.afterStep {s : State} (h : Inv s) : Inv (afterStep s) where
  memory         := afterInstr_mem (i := fetch s) (s := s) ▸ Memory.wf_store h.memory _
  queue          := afterInstr_inq_wf h.queue
  log            := afterStep_trace s ▸ TraceLog.wf_append h.log _
  overflow       := afterStep_trace s ▸ TraceLog.overflow_append _ h.overflow
  inputAvailable := afterInstr_inputAvailable.trans h.inputAvailable
  staged         := afterInstr_staged h.staged

/-- Settles O41: a step answers `afterStep`, which keeps each part of the invariant. -/
theorem stepKeepsLegalStates : Obligations.StepKeepsLegalStates := by
  intro s t hs ht
  rw [eq_afterStep_of_step ht]
  exact hs.afterStep

end Sys2Proof

/-! What no program can observe (spec/40_step_cycle.md section 2, spec/46_io.md section 5): replacing the trace log and the shutdown
latch before an instruction or a step replaces at most these two after it. -/

namespace Sys2Proof.Machine

/-- The state with another trace log and shutdown latch. -/
def State.withUnseen (s : State) (log : TraceLog) (latch : Bool) : State :=
  { s with trace := log, sys := { s.sys with shutdownRequested := latch } }

theorem sameForPrograms_iff {s s' : State} : SameForPrograms s s' ↔ ∃ log latch, s = s'.withUnseen log latch :=
  ⟨fun h => ⟨_, _, h.symm⟩, fun ⟨_, _, h⟩ => by rw [h]; rfl⟩

/-- Only a shutdown request writes the latch, and no command reads it. -/
theorem systemCommand_withUnseen (n : Addr) (s : State) (log : TraceLog) (latch : Bool) :
    ∃ latch', systemCommand n (s.withUnseen log latch) = (systemCommand n s).withUnseen log latch' := by
  rcases systemCommand_cases n s with ⟨rfl, _⟩ | ⟨rfl, _⟩ | ⟨rfl, _⟩ | ⟨h0, h1, h3, he⟩
  · exact ⟨latch, rfl⟩
  · exact ⟨latch, rfl⟩
  · exact ⟨true, rfl⟩
  · refine ⟨latch, ?_⟩
    rcases systemCommand_cases n (s.withUnseen log latch) with ⟨h, _⟩ | ⟨h, _⟩ | ⟨h, _⟩ | ⟨_, _, _, he'⟩
    · exact absurd h h0
    · exact absurd h h1
    · exact absurd h h3
    · rw [he, he']

theorem outputDispatch_withUnseen (dev : Word) (n : Addr) (s : State) (log : TraceLog) (latch : Bool) :
    ∃ latch', outputDispatch dev n (s.withUnseen log latch) = (outputDispatch dev n s).withUnseen log latch' := by
  by_cases hdev : dev = systemDeviceId
  · rw [hdev]
    cases hp : s.sys.pending with
    | true =>
      have hp' : (s.withUnseen log latch).sys.pending = true := hp
      rw [outputDispatch_staged_eq hp, outputDispatch_staged_eq hp']
      exact ⟨latch, rfl⟩
    | false =>
      have hp' : (s.withUnseen log latch).sys.pending = false := hp
      rw [outputDispatch_idle_eq hp, outputDispatch_idle_eq hp']
      exact systemCommand_withUnseen n s log latch
  · rw [outputDispatch_other hdev, outputDispatch_other hdev]
    exact ⟨latch, rfl⟩

theorem afterInstr_withUnseen (i : Instr) (s : State) (log : TraceLog) (latch : Bool) :
    ∃ latch', afterInstr i (s.withUnseen log latch) = (afterInstr i s).withUnseen log latch' := by
  cases i with
  | sot n =>
    obtain ⟨latch', h⟩ := outputDispatch_withUnseen s.a n s log latch
    exact ⟨latch', congrArg State.advance h⟩
  | _ => exact ⟨latch, rfl⟩

/-- The entry a step appends is the one thing in which the two logs go on to differ (log 7's free value included). -/
theorem afterStep_withUnseen (s : State) (log : TraceLog) (latch : Bool) :
    ∃ log' latch', afterStep (s.withUnseen log latch) = (afterStep s).withUnseen log' latch' := by
  obtain ⟨latch', h⟩ := afterInstr_withUnseen (fetch s) s log latch
  have hfetch : fetch (s.withUnseen log latch) = fetch s := rfl
  rw [afterStep_eq_setTrace, hfetch, h]
  exact ⟨_, latch', rfl⟩

end Sys2Proof.Machine

namespace Sys2Proof

open Machine

theorem SameForPrograms.afterStep {s s' : State} (h : SameForPrograms s s') :
    SameForPrograms (afterStep s) (afterStep s') := by
  obtain ⟨log, latch, rfl⟩ := sameForPrograms_iff.mp h
  exact sameForPrograms_iff.mpr (afterStep_withUnseen s' log latch)

/-- Settles O48: one step keeps the relation, so any number of steps does. -/
theorem traceAndShutdownLatchAreInvisible : Obligations.TraceAndShutdownLatchAreInvisible := by
  intro k
  induction k with
  | zero => exact fun s s' h => ⟨s, s', rfl, rfl, h⟩
  | succ k ih =>
    intro s s' h
    rw [runSteps_succ_eq, runSteps_succ_eq]
    exact ih _ _ h.afterStep

end Sys2Proof

/-! The trace log (spec/40_step_cycle.md section 2, spec/47_host_entry_points.md R296): the entry each step appends, the count over
many steps, and which entries the slots hold after many appends. -/

namespace Sys2Proof.Machine

/-- What a log that began empty holds after appends of `entries`: their number, the overflow flag it calls for, and in slot
`k mod 4096` the `k`-th of them, unless a later one has taken that slot. -/
structure TraceLog.Holds (l : TraceLog) (entries : List TraceEntry) : Prop where
  count    : l.count = entries.length
  overflow : l.overflow = decide (4096 < l.count)
  slots    : ∀ (k : Nat) (h : k < entries.length), entries.length ≤ k + 4096 → l.slotAt (k % 4096) = entries[k]

theorem TraceLog.holds_reset : TraceLog.reset.Holds [] where
  count    := rfl
  overflow := rfl
  slots    := fun _ h => absurd h (Nat.not_lt_zero _)

/-- An append takes the slot of the entry 4096 before it, and of no later one. -/
theorem TraceLog.Holds.append {l : TraceLog} {entries : List TraceEntry} (h : l.Holds entries) (e : TraceEntry) :
    (l.append e).Holds (entries ++ [e]) where
  count    := by rw [TraceLog.append_count, h.count, List.length_append, List.length_singleton]
  overflow := TraceLog.overflow_append e h.overflow
  slots    := by
    intro k hk hlast
    rw [List.length_append, List.length_singleton] at hk hlast
    rw [TraceLog.slotAt_append, h.count]
    rcases Nat.lt_or_eq_of_le (Nat.le_of_lt_succ hk) with hlt | rfl
    · have hslot : k % 4096 ≠ entries.length % traceCap := by
        show k % 4096 ≠ entries.length % 4096
        omega
      rw [if_neg hslot, h.slots k hlt (by omega), List.getElem_append_left hlt]
    · rw [if_pos rfl, List.getElem_concat_length rfl]

theorem TraceLog.holds_foldl_append (entries : List TraceEntry) :
    (entries.foldl TraceLog.append TraceLog.reset).Holds entries := by
  induction entries using List.reverseRecOn with
  | nil => exact TraceLog.holds_reset
  | append_singleton entries e ih =>
    rw [List.foldl_concat]
    exact ih.append e

/-- The read-out of a log that has not wrapped, or has: from slot 0, or from the slot the next append would take. -/
theorem TraceLog.Holds.drain_eq {l : TraceLog} {entries : List TraceEntry} (h : l.Holds entries) :
    l.drain = entries.drop (entries.length - 4096) := by
  have hcount := h.count
  unfold TraceLog.drain
  rw [h.overflow, hcount]
  by_cases hover : 4096 < entries.length
  · rw [if_pos (decide_eq_true hover)]
    have hlength : 4096 = entries.length - (entries.length - 4096) := by omega
    refine List.ext_getElem (by simpa using hlength) fun i hi _ => ?_
    have hi : i < 4096 := by simpa using hi
    have hslot : (entries.length % 4096 + i) % 4096 = (entries.length - 4096 + i) % 4096 := by omega
    rw [List.getElem_map, List.getElem_range, List.getElem_drop, hslot, h.slots _ (by omega) (by omega)]
  · have hall : entries.length - 4096 = 0 := by omega
    rw [if_neg (by simpa using hover), hall, List.drop_zero]
    refine List.ext_getElem (by simp) fun i hi _ => ?_
    have hi : i < entries.length := by simpa using hi
    have hslot := h.slots i hi (by omega)
    rw [Nat.mod_eq_of_lt (by omega)] at hslot
    rw [List.getElem_map, List.getElem_range, hslot]

end Sys2Proof.Machine

namespace Sys2Proof

open Machine

/-- Settles O7: the log after a step is the old one with the step's entry (`afterStep_trace`). -/
theorem everyStepAppendsOneTraceEntry : Obligations.EveryStepAppendsOneTraceEntry := by
  intro s
  refine ⟨afterStep s, step_eq_afterStep s, ?_⟩
  rw [afterStep_trace]
  refine ⟨rfl, ?_, ?_, fun i hi => ?_, ?_⟩
  · rw [TraceLog.slotAt_append, if_pos rfl]
    rfl
  · rw [TraceLog.slotAt_append, if_pos rfl]
    exact opcode_decodeWord _
  · rw [TraceLog.slotAt_append, if_neg hi]
  · rw [TraceLog.append_overflow, Bool.or_eq_true, decide_eq_true_iff]

/-- Settles O8: each step appends once, and an append keeps the overflow flag what the count calls for. -/
theorem traceCountCountsSteps : Obligations.TraceCountCountsSteps := by
  intro k
  induction k with
  | zero => exact fun s => ⟨s, rfl, rfl, id⟩
  | succ k ih =>
    intro s
    obtain ⟨t, ht, hcount, hover⟩ := ih (afterStep s)
    have hk : (afterStep s).trace.count + k = s.trace.count + (k + 1) := by
      rw [afterStep_trace, TraceLog.append_count]
      omega
    rw [hk] at hcount hover
    refine ⟨t, (runSteps_succ_eq k s).trans ht, hcount, fun h => hover ?_⟩
    rw [afterStep_trace]
    exact TraceLog.overflow_append _ h

/-- Settles O9: the read-out of what the slots hold after the appends. -/
theorem drainReturnsLastEntriesOldestFirst : Obligations.DrainReturnsLastEntriesOldestFirst :=
  fun entries => (TraceLog.holds_foldl_append entries).drain_eq

end Sys2Proof

/-! Rules of the whole machine (spec/10_state.md, spec/20_memory.md sections 4 and 9, spec/46_io.md): what any one step writes, field
by field, and what the next fetch sees of it. -/

namespace Sys2Proof.Machine

section
variable {i : Instr} {s : State}

theorem not_jumpTaken_of_storeOf {w : Addr × Word} (h : storeOf i s = some w) : jumpTaken i s = false := by
  cases i with
  | str n | std n | gin n => rfl
  | _ => cases h

/-- No command clears the shutdown latch (decision D11). -/
theorem outputDispatch_latch (dev : Word) (n : Addr) (h : s.sys.shutdownRequested = true) :
    (outputDispatch dev n s).sys.shutdownRequested = true := by
  rcases outputDispatch_cases dev n s with ⟨_, e⟩ | ⟨_, _, e⟩ | ⟨_, _, _, e⟩ | ⟨_, _, _, e⟩ | ⟨_, _, _, e⟩ | ⟨_, _, _, _, _, e⟩ <;>
    simp [e, h, systemArgument, systemQuery, systemStage, systemShutdown]

theorem afterInstr_latch (h : s.sys.shutdownRequested = true) : (afterInstr i s).sys.shutdownRequested = true := by
  cases i with
  | sot n => exact outputDispatch_latch s.a n h
  | _ => exact h

/-- With the wiring `NeverDriven` the flag as wired is the stored one (spec/10_state.md R31). -/
theorem inputAvailableNow_of_neverDriven (h : s.cfg.inputAvailableWiring = .neverDriven) :
    inputAvailableNow s = s.inputAvailable := by
  simp only [inputAvailableNow, h]

/-- With the wiring `QueueNonEmpty` the flag as wired tells whether entries are outstanding (spec/10_state.md R31). -/
theorem inputAvailableNow_of_queueNonEmpty (h : s.cfg.inputAvailableWiring = .queueNonEmpty) :
    inputAvailableNow s = decide (0 < s.inq.count) := by
  simp only [inputAvailableNow, h]

end

theorem afterStep_mem (s : State) : (afterStep s).mem = Memory.store s.mem (storeOf (fetch s) s) := afterInstr_mem

theorem afterStep_iar_of_not_jumpTaken {s : State} (h : jumpTaken (fetch s) s = false) : (afterStep s).iar = s.iar + 1 := by
  rw [step_iar (step_eq_afterStep s), h]
  rfl

theorem afterStep_mem_of_storeOf {s : State} {n : Addr} {v : Word} (h : storeOf (fetch s) s = some (n, v)) :
    (afterStep s).mem = Memory.write s.mem n v := by
  rw [afterStep_mem, h]
  rfl

/-- A jump to its own address leaves `IAR` where it is, so only the log is another. -/
theorem afterStep_of_jump_to_itself {s : State} (h : fetch s = .jmp s.iar) : ∃ log, afterStep s = s.setTrace log := by
  rw [afterStep_eq_setTrace, h]
  exact ⟨_, rfl⟩

theorem runSteps_of_jump_to_itself (k : Nat) {s : State} (h : fetch s = .jmp s.iar) :
    ∃ log, runSteps k s = .next (s.setTrace log) := by
  induction k generalizing s with
  | zero => exact ⟨s.trace, rfl⟩
  | succ k ih =>
    obtain ⟨log, hlog⟩ := afterStep_of_jump_to_itself h
    rw [runSteps_succ_eq, hlog]
    exact ih (s := s.setTrace log) h

theorem Memory.write_read_same {m : List Host.Cell} (h : Memory.wf m) (n : Addr) : Memory.write m n (Memory.read m n) = m := by
  refine Memory.ext (Memory.wf_write h n _) h fun k => ?_
  by_cases hk : k = n
  · rw [hk, Memory.read_write_same]
  · rw [Memory.read_write_other _ _ hk]

end Sys2Proof.Machine

namespace Sys2Proof

open Machine

/-- Settles O44: only the loads write `A` or `B`, only a run of the ALU or a bitwise result writes `C`, over all instructions. -/
theorem onlyTheListedInstructionsWriteRegisters : Obligations.OnlyTheListedInstructionsWriteRegisters :=
  fun s => ⟨afterStep s, step_eq_afterStep s, afterInstr_a, afterInstr_b, afterInstr_c, afterInstr_aluMode⟩

/-- Settles O45: only a run of the ALU writes zero, and carry in its modes `Add` and `Subtract`, over all instructions. -/
theorem onlyTheListedInstructionsWriteFlags : Obligations.OnlyTheListedInstructionsWriteFlags :=
  fun s => ⟨afterStep s, step_eq_afterStep s, afterInstr_zero, afterInstr_carry⟩

/-- Settles O46: memory after a step is the old one with the stored word, if one is stored (`afterStep_mem`). -/
theorem onlyStoresWriteMemory : Obligations.OnlyStoresWriteMemory := by
  refine fun s => ⟨afterStep s, step_eq_afterStep s, fun h k => ?_, fun n v h => ?_⟩
  · rw [afterStep_mem, h]
    rfl
  · exact ⟨operand_of_storeOf h, stored_of_mem (afterStep_mem_of_storeOf h)⟩

/-- Settles O47: only `GIN` and `SOT` write the queue, only an output to device 1 the device, and none clears the latch. -/
theorem onlyOutputsReachTheSystemDevice : Obligations.OnlyOutputsReachTheSystemDevice :=
  fun s => ⟨afterStep s, step_eq_afterStep s, afterInstr_inq, afterInstr_sys, afterInstr_latch⟩

/-- Settles O43: no instruction writes the flag or the configuration, and in a legal state the flag that `JII` reads under the
default wiring is false. -/
theorem noStepDrivesInputAvailable : Obligations.NoStepDrivesInputAvailable := by
  refine fun s => ⟨afterStep s, step_eq_afterStep s, afterInstr_inputAvailable, afterInstr_cfg, fun hs hwiring n hfetch => ?_⟩
  have hjump : jumpTaken (fetch s) s = false := by
    rw [hfetch]
    exact (inputAvailableNow_of_neverDriven hwiring).trans hs.inputAvailable
  unfold Advances
  rw [afterStep_iar_of_not_jumpTaken hjump, addr_add_one_toNat]

/-- Settles O37: an instruction that stores does not jump, so the next fetch reads the next cell as the store left it. -/
theorem storedWordIsSeenByTheNextFetch : Obligations.StoredWordIsSeenByTheNextFetch := by
  refine fun s => ⟨afterStep s, step_eq_afterStep s, fun n v h => ?_⟩
  have hread : Memory.read (afterStep s).mem n = v := (stored_of_mem (afterStep_mem_of_storeOf h)).1
  refine ⟨hread, fun hn => ?_⟩
  rw [fetch_eq, afterStep_iar_of_not_jumpTaken (not_jumpTaken_of_storeOf h), ← hn, hread]

/-- Settles O49: each turn of the jump replaces the log and nothing else, the fetched word included. -/
theorem jumpToItselfChangesOnlyTheTrace : Obligations.JumpToItselfChangesOnlyTheTrace := by
  intro k s h
  obtain ⟨log, hlog⟩ := runSteps_of_jump_to_itself k h
  exact ⟨_, hlog, rfl⟩

/-- Settles O36: read after write, and two canonical memories that read alike are equal. -/
theorem memoryReadAfterWrite : Obligations.MemoryReadAfterWrite :=
  fun m n v => ⟨Memory.read_write_same m n v, fun _ hk => Memory.read_write_other m v hk,
    fun h => ⟨Memory.wf_write h n v, Memory.write_read_same h n⟩⟩

/-- Settles O4: the two bytes at `IAR` make up the word that is fetched. -/
theorem stepRunsTheFetchedInstruction : Obligations.StepRunsTheFetchedInstruction := by
  intro s i h
  rw [decodeBytes_cons_cons] at h
  obtain rfl : fetch s = i := congrArg Prod.fst (Except.ok.inj h)
  exact ⟨_, exec_eq_afterInstr _ s, step_eq_afterStep s⟩

/-- Settles O1: each word, by its own opcode and operand. -/
theorem listedWordsDecodeAsListed : Obligations.ListedWordsDecodeAsListed := by
  unfold Obligations.ListedWordsDecodeAsListed
  decide

end Sys2Proof

/-! Mode `Subtract` (spec/41_alu.md section 1): the difference as a sum with the complement, whose carry-out is "no borrow". -/

namespace Sys2Proof.Machine

/-- `A + ~B + 1` in 17 bits does not wrap. -/
theorem complementSum17_toNat (a b : Word) :
    (a.setWidth 17 + (~~~b).setWidth 17 + 1).toNat = a.toNat + (65535 - b.toNat) + 1 := by
  have ha := a.isLt
  rw [BitVec.toNat_add, sum17_toNat, BitVec.toNat_not]
  show (a.toNat + (65535 - b.toNat) + 1) % 131072 = _
  omega

/-- The carry-out of `A + ~B + 1` tells that there is no borrow. -/
theorem complementSum17_bit16 (a b : Word) :
    (a.setWidth 17 + (~~~b).setWidth 17 + 1).getLsbD 16 = decide (b.toNat ≤ a.toNat) := by
  have hmsb := BitVec.msb_eq_decide (a.setWidth 17 + (~~~b).setWidth 17 + 1)
  rw [complementSum17_toNat, BitVec.msb_eq_getLsbD_last] at hmsb
  refine hmsb.trans (decide_eq_decide.mpr ?_)
  have hb := b.isLt
  omega

end Sys2Proof.Machine

namespace Sys2Proof

open Machine

/-- Settles O12: the borrow is `A < B`, and the carry-out of the sum with the complement is its negation. -/
theorem subtractCarryIsABorrow : Obligations.SubtractCarryIsABorrow := by
  intro s hmode
  have hc : s.runAlu.c = s.a - s.b := by rw [State.runAlu_c, hmode, aluResult_subtract_eq]
  have hcarry : s.runAlu.carry = decide (s.a.toNat < s.b.toNat) := by rw [State.runAlu_carry, hmode, aluCarry_subtract]
  refine ⟨hc, ?borrow, ?carryOut, ?zero⟩
  case borrow =>
    rw [hcarry, decide_eq_true_iff]
    omega
  case carryOut =>
    rw [hcarry, complementSum17_bit16, ← decide_not, decide_eq_decide, Nat.not_le]
  case zero =>
    rw [State.runAlu_zero, hmode, aluResult_subtract_eq, beq_iff_eq]
    exact sub_eq_zero

end Sys2Proof

/-! The rotate of `SSD` (spec/44_store_and_bitwise.md R202), bit by bit: a turn of the loop moves every bit one place down and bit 0
to the top, so `k` turns move bit `(i + k) mod 16` to place `i`. -/

namespace Sys2Proof.Machine

/-- "`(w >> 1) + 32768 * w[0]`": the carry out of a turn goes in at the top. -/
theorem rotateOnce_eq (w : Nat) : rotateOnce w = w / 2 + 32768 * (w % 2) := by
  unfold rotateOnce
  split <;> omega

theorem rotateOnce_testBit {w : Nat} (hw : w < 65536) {i : Nat} (hi : i < 16) :
    (rotateOnce w).testBit i = w.testBit ((i + 1) % 16) := by
  have hhalf : w / 2 < 2 ^ 15 := by omega
  rw [rotateOnce_eq, Nat.add_comm, show (32768 : Nat) = 2 ^ 15 from rfl, Nat.testBit_two_pow_mul_add _ hhalf]
  split
  · next hlt => rw [Nat.testBit_div_two, Nat.mod_eq_of_lt (by omega)]
  · next hge =>
    obtain rfl : i = 15 := by omega
    simp [Nat.testBit_zero]

theorem rotateLoop_testBit (k : Nat) {w : Nat} (hw : w < 65536) {i : Nat} (hi : i < 16) :
    (rotateLoop k w).testBit i = w.testBit ((i + k) % 16) := by
  induction k generalizing w with
  | zero => rw [rotateLoop, Nat.add_zero, Nat.mod_eq_of_lt hi]
  | succ k ih =>
    have hplace : ((i + k) % 16 + 1) % 16 = (i + (k + 1)) % 16 := by omega
    rw [rotateLoop, ih (rotateOnce_lt hw), rotateOnce_testBit hw (Nat.mod_lt (i + k) (Nat.succ_pos 15)), hplace]

theorem rotated_getLsbD (a b : Word) {i : Nat} (hi : i < 16) :
    (rotated a b).getLsbD i = a.getLsbD ((i + b.toNat % 16) % 16) := by
  rw [BitVec.getLsbD, BitVec.getLsbD, rotated_toNat, rotateLoop_testBit _ a.isLt hi]

/-- The library's rotate, bit by bit. -/
theorem rotateRight_getLsbD (a : Word) {k i : Nat} (hk : k < 16) (hi : i < 16) :
    (a.rotateRight k).getLsbD i = a.getLsbD ((i + k) % 16) := by
  rw [BitVec.getLsbD_rotateRight, Nat.mod_eq_of_lt hk]
  by_cases hlow : i < 16 - k
  · have hplace : (i + k) % 16 = k + i := by omega
    rw [hplace, decide_eq_true hlow, cond_true]
  · have hplace : (i + k) % 16 = i - (16 - k) := by omega
    rw [hplace, decide_eq_false hlow, cond_false, decide_eq_true hi, Bool.true_and]

theorem rotated_eq_rotateRight (a b : Word) : rotated a b = a.rotateRight (b.toNat % 16) := by
  apply BitVec.eq_of_getLsbD_eq
  intro i hi
  rw [rotated_getLsbD a b hi, rotateRight_getLsbD a (Nat.mod_lt b.toNat (Nat.succ_pos 15)) hi]

/-- The two shifts of a rotate never both reach a place below 16. -/
theorem rotateLoop_eq_shifts (a : Word) {k : Nat} (hk : 1 ≤ k) (hk' : k ≤ 15) :
    rotateLoop k a.toNat = ((a.toNat >>> k) ||| (a.toNat <<< (16 - k))) % 65536 := by
  apply Nat.eq_of_testBit_eq
  intro i
  rw [show (65536 : Nat) = 2 ^ 16 from rfl, Nat.testBit_mod_two_pow, Nat.testBit_or, Nat.testBit_shiftRight,
    Nat.testBit_shiftLeft]
  by_cases hi : i < 16
  · rw [rotateLoop_testBit k a.isLt hi, decide_eq_true hi, Bool.true_and]
    by_cases hlow : i < 16 - k
    · have hplace : (i + k) % 16 = k + i := by omega
      rw [hplace, decide_eq_false (Nat.not_le.mpr hlow), Bool.false_and, Bool.or_false]
    · have hplace : (i + k) % 16 = i - (16 - k) := by omega
      have hhigh : a.toNat.testBit (k + i) = false :=
        Nat.testBit_eq_false_of_lt (lt_of_lt_of_le a.isLt (Nat.pow_le_pow_right (Nat.succ_pos 1) (by omega)))
      rw [hplace, decide_eq_true (Nat.le_of_not_lt hlow), hhigh, Bool.false_or, Bool.true_and]
  · rw [decide_eq_false hi, Bool.false_and]
    exact Nat.testBit_eq_false_of_lt
      (lt_of_lt_of_le (rotateLoop_lt k a.isLt) (Nat.pow_le_pow_right (Nat.succ_pos 1) (Nat.le_of_not_lt hi)))

end Sys2Proof.Machine

namespace Sys2Proof

open Machine

/-- Settles O35: one turn by cases on bit 0, and the rest bit by bit. -/
theorem rotateLoopIsARotateRight : Obligations.RotateLoopIsARotateRight :=
  ⟨fun w _ => by rw [rotateOnce_eq, Nat.shiftRight_one], fun a _ hk hk' => rotateLoop_eq_shifts a hk hk', rotated_eq_rotateRight⟩

/-- Settles O22: `SSD` puts the rotated word into `C` and runs the ALU in mode `Other`, which derives zero alone. -/
theorem ssdRotatesAIntoC : Obligations.SsdRotatesAIntoC := by
  intro n s
  have hword : HasWord (.ssd n) (0x8000 + n.toNat) := hasWord_of_opcode 8 rfl (by decide)
  obtain ⟨hc, hcarry, hzero⟩ :=
    State.runAlu_advance_of_other (s := (s.setC (rotated s.a s.b)).setMode .other) rfl rfl
  obtain ⟨hmem, hio, hlog, hiar⟩ := ((s.setC (rotated s.a s.b)).setMode .other).runAlu_advance_frame
  refine ⟨hword, _, exec_ssd n s, fun i hi => ?_, hzero, rfl, rfl, rfl, hcarry, rfl, hmem, hio, hlog, hiar,
    fun m => exec_ssd m s⟩
  rw [hc]
  exact rotated_getLsbD s.a s.b hi

end Sys2Proof

/-! The conditions of `JII` and `JBT` (spec/45_jumps.md, decisions D5 and D6) in each setting of the parameters. -/

namespace Sys2Proof.Machine

theorem jbtCondition_allBitsOfB_iff (a b : Word) : jbtCondition .allBitsOfB a b = true ↔ a &&& b = b := beq_iff_eq

theorem jbtCondition_lowBitOfA_iff (a b : Word) : jbtCondition .lowBitOfA a b = true ↔ a.toNat % 2 = 1 := by
  rw [jbtCondition, BitVec.getLsbD, Nat.testBit_zero, decide_eq_true_iff]

/-- "every bit that is 1 in B is also 1 in A", bit by bit. -/
theorem and_eq_right_iff_bits (a b : Word) : a &&& b = b ↔ ∀ i < 16, b.getLsbD i = true → a.getLsbD i = true := by
  constructor
  · intro h i _ hb
    rw [← h, BitVec.getLsbD_and, Bool.and_eq_true] at hb
    exact hb.1
  · intro h
    apply BitVec.eq_of_getLsbD_eq
    intro i hi
    rw [BitVec.getLsbD_and, Bool.and_eq_right_iff_imp]
    exact h i hi

end Sys2Proof.Machine

namespace Sys2Proof

open Machine

/-- Settles O26: `JII` is the jump on the flag as wired. -/
theorem jiiJumpsAsWired : Obligations.JiiJumpsAsWired := by
  intro n s
  refine ⟨hasWord_of_opcode 12 rfl (by decide), _, exec_jii n s, fun h => ?neverDriven, fun h => ?queueNonEmpty,
    s.jumpIf_frame (inputAvailableNow s) n⟩
  case neverDriven =>
    rw [inputAvailableNow_of_neverDriven h]
    exact ⟨s.jumpIf_iar_of_true n, s.jumpIf_advances_of_false n⟩
  case queueNonEmpty =>
    rw [inputAvailableNow_of_queueNonEmpty h]
    exact ⟨fun hpos => s.jumpIf_iar_of_true n (decide_eq_true hpos),
      fun hzero => s.jumpIf_advances_of_false n (decide_eq_false (Nat.not_lt.mpr (Nat.le_of_eq hzero)))⟩

/-- Settles O27: `JBT` is the jump on the bit test in the reading the configuration names. -/
theorem jbtJumpsInBothReadings : Obligations.JbtJumpsInBothReadings := by
  intro n s
  refine ⟨hasWord_of_opcode 13 rfl (by decide), _, exec_jbt n s, fun h => ?allBitsOfB, fun h => ?lowBitOfA,
    s.jumpIf_frame _ n⟩
  case allBitsOfB =>
    have hcond := (jbtCondition_allBitsOfB_iff s.a s.b).trans (and_eq_right_iff_bits s.a s.b)
    rw [h]
    refine ⟨fun hall => s.jumpIf_iar_of_true n (hcond.mpr hall), fun ⟨i, hi, hb, ha⟩ => ?_⟩
    refine s.jumpIf_advances_of_false n (Bool.eq_false_iff.mpr fun htrue => ?_)
    rw [hcond.mp htrue i hi hb] at ha
    cases ha
  case lowBitOfA =>
    have hcond := jbtCondition_lowBitOfA_iff s.a s.b
    rw [h]
    refine ⟨fun hodd => s.jumpIf_iar_of_true n (hcond.mpr hodd), fun heven => ?_⟩
    refine s.jumpIf_advances_of_false n (Bool.eq_false_iff.mpr fun htrue => ?_)
    have hodd := hcond.mp htrue
    omega

/-- Settles O28: each reading as its own test, and `A & 1` is the low bit of `A`. -/
theorem jbtReadingsAgreeWhenBIsOne : Obligations.JbtReadingsAgreeWhenBIsOne := by
  have hagree (a b : Word) :
      jbtCondition .allBitsOfB a b = jbtCondition .lowBitOfA a b ↔ (a.toNat % 2 = 1 ↔ a &&& b = b) := by
    rw [Bool.eq_iff_iff, jbtCondition_allBitsOfB_iff, jbtCondition_lowBitOfA_iff]
    exact Iff.comm
  refine ⟨fun a => (hagree a 1).mpr ?_, hagree, fun a heven => ⟨?_, Bool.eq_false_iff.mpr fun htrue => ?_⟩⟩
  · rw [BitVec.toNat_eq, BitVec.toNat_and]
    show a.toNat % 2 = 1 ↔ a.toNat &&& 1 = 1
    rw [Nat.and_one_is_mod]
  · rw [jbtCondition_allBitsOfB_iff]
    exact BitVec.and_zero
  · have hodd := (jbtCondition_lowBitOfA_iff a 0).mp htrue
    omega

end Sys2Proof

/-! Input and output (spec/46_io.md): `GIN`, the system device's commands and arguments, and the input queue as a stack. The slot
`k` places behind the cursor is the `k`-th newest entry, which is what pushes, pops and the stack are stated in. -/

namespace Sys2Proof.Machine

/-- The address `k` places before another, with wrap. -/
theorem addr_sub_toNat (n : Addr) {k : Nat} (hk : k < 4096) :
    (n - BitVec.ofNat 12 k).toNat = (n.toNat + 4096 - k) % 4096 := by
  have hk' : (BitVec.ofNat 12 k).toNat = k := (BitVec.toNat_ofNat k 12).trans (Nat.mod_eq_of_lt hk)
  have hn : 4096 - k + n.toNat = n.toNat + 4096 - k := by omega
  rw [BitVec.toNat_sub, hk']
  exact congrArg (· % 4096) hn

theorem addr_sub_one_toNat (n : Addr) : (n - 1).toNat = (n.toNat + 4095) % 4096 :=
  addr_sub_toNat n (k := 1) (by decide)

/-- The entry `k` places behind the cursor. -/
def InputQueue.back (q : InputQueue) (k : Nat) : QueueEntry := q.slotAt (q.cursor - BitVec.ofNat 12 k).toNat

/-- The ring has 4096 places. -/
theorem InputQueue.back_mod (q : InputQueue) (k : Nat) : q.back (k % 4096) = q.back k := by
  have h : BitVec.ofNat 12 (k % 4096) = BitVec.ofNat 12 k := BitVec.eq_of_toNat_eq (by simp)
  rw [InputQueue.back, InputQueue.back, h]

theorem InputQueue.back_zero (q : InputQueue) : q.back 0 = q.slotAt q.cursor.toNat := by
  rw [InputQueue.back, BitVec.sub_zero]

@[simp] theorem InputQueue.back_push_zero (q : InputQueue) (dev data : Word) :
    (q.push dev data).back 0 = { deviceId := dev, data := data } := by
  rw [InputQueue.back_zero, InputQueue.slotAt_push, InputQueue.push_cursor, if_pos rfl]

/-- A push moves every entry one place further back, but the one whose slot it takes. -/
theorem InputQueue.back_push_succ (q : InputQueue) (dev data : Word) {k : Nat} (hk : k + 1 < 4096) :
    (q.push dev data).back (k + 1) = q.back k := by
  have hplace : q.cursor + 1 - BitVec.ofNat 12 (k + 1) = q.cursor - BitVec.ofNat 12 k := by
    rw [BitVec.ofNat_add]
    exact add_sub_add_right_eq_sub _ _ _
  have hslot : (q.cursor - BitVec.ofNat 12 k).toNat ≠ (q.cursor + 1).toNat := by
    have := q.cursor.isLt
    rw [addr_sub_toNat _ (Nat.lt_of_succ_lt hk), addr_add_one_toNat]
    omega
  rw [InputQueue.back, InputQueue.push_cursor, hplace, InputQueue.slotAt_push, if_neg hslot, InputQueue.back]

theorem InputQueue.back_pop {q : InputQueue} (h : 0 < q.count) (k : Nat) : q.pop.back k = q.back (k + 1) := by
  have hplace : q.cursor - 1 - BitVec.ofNat 12 k = q.cursor - BitVec.ofNat 12 (k + 1) := by
    rw [Nat.add_comm, BitVec.ofNat_add]
    exact sub_sub _ _ _
  rw [InputQueue.back, InputQueue.slotAt_pop, InputQueue.pop_cursor, if_neg (Nat.ne_of_gt h), hplace, InputQueue.back]

theorem represents_iff {q : InputQueue} {stack : List Word} :
    Represents q stack ↔ q.count = stack.length ∧ stack.length ≤ 4096 ∧
      ∀ (k : Nat) (h : k < stack.length), (q.back k).data = stack[k] := by
  refine and_congr_right fun _ => and_congr_right fun hle => forall_congr' fun k => forall_congr' fun hk => ?_
  rw [InputQueue.back, addr_sub_toNat _ (Nat.lt_of_lt_of_le hk hle)]

theorem represents_nil_iff {q : InputQueue} : Represents q [] ↔ q.count = 0 :=
  ⟨fun h => h.1, fun h => ⟨h, Nat.zero_le _, fun _ hk => absurd hk (Nat.not_lt_zero _)⟩⟩

theorem represents_push {q : InputQueue} {stack : List Word} (dev data : Word) (h : Represents q stack)
    (hroom : stack.length < 4096) : Represents (q.push dev data) (data :: stack) := by
  obtain ⟨hcount, _, hback⟩ := represents_iff.mp h
  refine represents_iff.mpr ⟨?_, hroom, fun k hk => ?_⟩
  · rw [InputQueue.push_count, hcount, List.length_cons]
  · rw [List.length_cons] at hk
    cases k with
    | zero => rw [InputQueue.back_push_zero, List.getElem_cons_zero]
    | succ k => rw [InputQueue.back_push_succ q dev data (by omega), hback k (by omega), List.getElem_cons_succ]

theorem represents_pop {q : InputQueue} {data : Word} {stack : List Word} (h : Represents q (data :: stack)) :
    q.popValue = data ∧ Represents q.pop stack := by
  obtain ⟨hcount, hle, hback⟩ := represents_iff.mp h
  rw [List.length_cons] at hcount hle
  have hpos : 0 < q.count := by omega
  constructor
  · rw [InputQueue.popValue_of_pos hpos, ← InputQueue.back_zero]
    exact hback 0 (Nat.succ_pos _)
  · refine represents_iff.mpr ⟨?_, Nat.le_of_succ_le hle, fun k hk => ?_⟩
    · rw [InputQueue.pop_count, hcount, Nat.add_sub_cancel]
    · rw [InputQueue.back_pop hpos]
      exact hback (k + 1) (Nat.succ_lt_succ hk)

/-- The word that the pop after `k` pops returns. -/
def InputQueue.delivered (q : InputQueue) (k : Nat) : Word := if k < q.count then (q.back k).data else 0

theorem InputQueue.delivered_zero (q : InputQueue) : q.delivered 0 = q.popValue := by
  rcases Nat.eq_zero_or_pos q.count with h | h
  · rw [(InputQueue.pop_of_empty h).1, InputQueue.delivered, h, if_neg (Nat.lt_irrefl 0)]
  · rw [InputQueue.popValue_of_pos h, InputQueue.delivered, if_pos h, InputQueue.back_zero]

theorem InputQueue.delivered_pop (q : InputQueue) (k : Nat) : q.pop.delivered k = q.delivered (k + 1) := by
  rcases Nat.eq_zero_or_pos q.count with h | h
  · rw [(InputQueue.pop_of_empty h).2, InputQueue.delivered, InputQueue.delivered, h, if_neg (Nat.not_lt_zero _),
      if_neg (Nat.not_lt_zero _)]
  · have hlt : k < q.count - 1 ↔ k + 1 < q.count := Nat.lt_sub_iff_add_lt
    simp only [InputQueue.delivered, InputQueue.pop_count, InputQueue.back_pop h, hlt]

theorem pops_eq_map_delivered (k : Nat) (q : InputQueue) : pops k q = (List.range k).map q.delivered := by
  induction k generalizing q with
  | zero => rfl
  | succ k ih =>
    rw [pops, ih, List.range_succ_eq_map, List.map_cons, List.map_map, InputQueue.delivered_zero]
    exact congrArg _ (List.map_congr_left fun j _ => q.delivered_pop j)

@[simp] theorem pushAll_concat (q : InputQueue) (entries : List QueueEntry) (e : QueueEntry) :
    pushAll q (entries ++ [e]) = (pushAll q entries).push e.deviceId e.data :=
  List.foldl_concat _ _ _ _

/-- The words pushed, newest first. -/
abbrev newestFirst (entries : List QueueEntry) : List Word := (entries.map QueueEntry.data).reverse

theorem newestFirst_concat (entries : List QueueEntry) (e : QueueEntry) :
    newestFirst (entries ++ [e]) = e.data :: newestFirst entries := by
  simp [newestFirst]

theorem pushAll_count (q : InputQueue) (entries : List QueueEntry) :
    (pushAll q entries).count = q.count + entries.length := by
  induction entries using List.reverseRecOn with
  | nil => rfl
  | append_singleton entries e ih =>
    rw [pushAll_concat, InputQueue.push_count, ih, List.length_append, List.length_singleton, Nat.add_assoc]

/-- The 4096 newest entries stand behind the cursor, in order. -/
theorem pushAll_back (q : InputQueue) (entries : List QueueEntry) {k : Nat} (hk : k < (newestFirst entries).length)
    (hcap : k < 4096) : ((pushAll q entries).back k).data = (newestFirst entries)[k] := by
  induction entries using List.reverseRecOn generalizing k with
  | nil => exact absurd hk (Nat.not_lt_zero _)
  | append_singleton entries e ih =>
    simp only [newestFirst_concat, List.length_cons] at hk ⊢
    cases k with
    | zero => rw [pushAll_concat, InputQueue.back_push_zero, List.getElem_cons_zero]
    | succ k =>
      rw [pushAll_concat, InputQueue.back_push_succ _ _ _ hcap, List.getElem_cons_succ]
      exact ih (Nat.lt_of_succ_lt_succ hk) (Nat.lt_of_succ_lt hcap)

section
variable {q : InputQueue} (hq : q.count = 0) (entries : List QueueEntry)
include hq

/-- Past all that was pushed, pops return zeros. -/
theorem delivered_pushAll_past (j : Nat) :
    (List.range j).map (fun i => (pushAll q entries).delivered (entries.length + i)) = List.replicate j 0 := by
  have hzero (i : Nat) : (pushAll q entries).delivered (entries.length + i) = 0 := by
    rw [InputQueue.delivered, pushAll_count, hq, if_neg (by omega)]
  simp only [hzero, List.map_const', List.length_range]

/-- Each full turn of the ring delivers the newest words again, as many as are still counted. -/
theorem delivered_pushAll_turn (turn : Nat) {m : Nat} (hm : m ≤ 4096) (hlen : 4096 * turn + m ≤ entries.length) :
    (List.range m).map (fun i => (pushAll q entries).delivered (4096 * turn + i)) = (newestFirst entries).take m := by
  have hnewest : (newestFirst entries).length = entries.length := by simp
  refine List.ext_getElem (by rw [List.length_map, List.length_range, List.length_take, hnewest]; omega) fun i hi _ => ?_
  have hi : i < m := by simpa using hi
  have hcounted : 4096 * turn + i < (pushAll q entries).count := by rw [pushAll_count, hq]; omega
  have hplace : (4096 * turn + i) % 4096 = i := by omega
  rw [List.getElem_map, List.getElem_range, InputQueue.delivered, if_pos hcounted, ← InputQueue.back_mod, hplace,
    pushAll_back q entries (by omega) (by omega), List.getElem_take]

end

end Sys2Proof.Machine

namespace Sys2Proof

open Machine

/-- Settles O50: a push and a pop on the slots behind the cursor are a push and a pop of the stack. -/
theorem inputQueueIsAStack : Obligations.InputQueueIsAStack :=
  ⟨represents_nil_iff.mpr rfl, fun _ _ dev data h hroom => represents_push dev data h hroom, fun _ _ _ h => represents_pop h,
    fun _ h => InputQueue.pop_of_empty h.1⟩

/-- Settles O51: the pops deliver one turn of the ring, up to one more for the count above 4096, then zeros. -/
theorem overfullQueueRepeatsTheNewest : Obligations.OverfullQueueRepeatsTheNewest := by
  refine fun q entries hq => ⟨fun hle j => ?_, fun m _ hm hlen j => ?_⟩
  · have hturn := delivered_pushAll_turn hq entries 0 hle (by omega)
    have hall : (newestFirst entries).take entries.length = newestFirst entries := List.take_of_length_le (by simp)
    simp only [Nat.mul_zero, Nat.zero_add, hall] at hturn
    rw [pops_eq_map_delivered, List.range_add, List.map_append, List.map_map]
    exact congrArg₂ _ hturn (delivered_pushAll_past hq entries j)
  · have hfirst := delivered_pushAll_turn hq entries 0 (Nat.le_refl 4096) (by omega)
    have hagain := delivered_pushAll_turn hq entries 1 hm (by omega)
    have hpast := delivered_pushAll_past hq entries j
    rw [hlen] at hpast
    simp only [Nat.mul_zero, Nat.zero_add] at hfirst
    rw [pops_eq_map_delivered, List.range_add, List.range_add, List.map_append, List.map_append, List.map_map, List.map_map]
    exact congrArg₂ _ (congrArg₂ _ hfirst hagain) hpast

end Sys2Proof

/-! `GIN` and the system device (spec/46_io.md sections 2 to 5): a pop stored at the operand, the argument of a staged command, and
the commands to the idle device. -/

namespace Sys2Proof.Machine

/-- "any other operand → no-op" (R256). -/
theorem systemCommand_of_four_le {n : Addr} (h : 4 ≤ n.toNat) (s : State) : systemCommand n s = s := by
  rcases systemCommand_cases n s with ⟨rfl, _⟩ | ⟨rfl, _⟩ | ⟨rfl, _⟩ | ⟨_, _, _, he⟩
  · exact absurd h (by decide)
  · exact absurd h (by decide)
  · exact absurd h (by decide)
  · exact he

/-- An output and the advance: nothing but the queue, the device and `IAR` changes. -/
theorem outputDispatch_advance_frame (dev : Word) (n : Addr) (s : State) :
    { (outputDispatch dev n s).advance with iar := s.iar, sys := s.sys, inq := s.inq } = s ∧
      Advances s (outputDispatch dev n s).advance := by
  rw [outputDispatch_frame]
  exact ⟨rfl, addr_add_one_toNat s.iar⟩

theorem exec_sot_staged {s : State} (ha : s.a = 1) (h : s.sys.pending = true) (n : Addr) :
    exec (.sot n) s = .next (systemArgument n s).advance := by
  rw [exec_sot, ha, outputDispatch_staged_eq h]

theorem exec_sot_idle {s : State} (ha : s.a = 1) (h : s.sys.pending = false) (n : Addr) :
    exec (.sot n) s = .next (systemCommand n s).advance := by
  rw [exec_sot, ha, outputDispatch_idle_eq h]

/-- The slot a push takes is the new cursor's, and no other changes (R251). -/
theorem InputQueue.push_spec (q : InputQueue) (dev data : Word) :
    (q.push dev data).count = q.count + 1 ∧ (q.push dev data).cursor.toNat = (q.cursor.toNat + 1) % 4096 ∧
      (q.push dev data).slotAt (q.push dev data).cursor.toNat = { deviceId := dev, data := data } ∧
      ∀ i, i ≠ (q.push dev data).cursor.toNat → (q.push dev data).slotAt i = q.slotAt i := by
  refine ⟨rfl, addr_add_one_toNat q.cursor, ?_, fun i hi => ?_⟩
  · rw [InputQueue.slotAt_push, InputQueue.push_cursor, if_pos rfl]
  · rw [InputQueue.push_cursor] at hi
    rw [InputQueue.slotAt_push, if_neg hi]

end Sys2Proof.Machine

namespace Sys2Proof

open Machine

/-- Settles O29: `GIN` is a word write of the popped word, the pop and the advance. -/
theorem ginStoresThePoppedWord : Obligations.GinStoresThePoppedWord := by
  intro n s
  obtain ⟨hread, hkeeps⟩ :=
    stored_of_mem (s := s) (t := ((s.setInq s.inq.pop).writeWord n s.inq.popValue).advance) rfl
  refine ⟨hasWord_of_opcode 14 rfl (by decide), _, exec_gin n s, fun hzero => ?empty, fun hpos => ?outstanding, hkeeps,
    ⟨rfl, rfl, rfl⟩, ⟨rfl, rfl, rfl⟩, rfl, rfl, ⟨rfl, rfl⟩, addr_add_one_toNat s.iar⟩
  case empty =>
    obtain ⟨hvalue, hpop⟩ := InputQueue.pop_of_empty hzero
    exact ⟨hread.trans hvalue, hpop⟩
  case outstanding =>
    have hcursor : s.inq.pop.cursor = s.inq.cursor - 1 := by rw [InputQueue.pop_cursor, if_neg (Nat.ne_of_gt hpos)]
    exact ⟨hread.trans (InputQueue.popValue_of_pos hpos), Nat.sub_add_cancel hpos,
      (congrArg BitVec.toNat hcursor).trans (addr_sub_one_toNat _), fun _ => rfl⟩

/-- Settles O33: the staged device takes the payload as an argument, and in a legal state the command it stages is command 1. -/
theorem sotArgumentSetsTheClockSpeed : Obligations.SotArgumentSetsTheClockSpeed := by
  intro n s ha hp
  have hspeed (h : s.sys.command = 1) : (systemArgument n s).advance.sys.clockSpeed.toNat = n.toNat :=
    (congrArg BitVec.toNat (if_pos h)).trans (immediate_toNat n)
  exact ⟨_, exec_sot_staged ha hp n, rfl, hspeed, fun h => if_neg h, fun hs => hspeed (hs.staged hp), rfl, rfl, rfl,
    addr_add_one_toNat s.iar⟩

/-- Settles O34: each payload of the idle device as its own command. -/
theorem sotCommandsToTheIdleDevice : Obligations.SotCommandsToTheIdleDevice := by
  intro n s ha hp
  obtain ⟨hframe, hadvances⟩ := outputDispatch_advance_frame s.a n s
  rw [ha, outputDispatch_idle_eq hp] at hframe hadvances
  refine ⟨_, exec_sot_idle ha hp n, hframe, hadvances, fun h => ?query, fun h => ?stage, fun h => ?restart, fun h => ?shutdown,
    fun h => ?other⟩
  case query =>
    obtain rfl : n = 0 := BitVec.eq_of_toNat_eq h
    exact ⟨rfl, s.inq.push_spec systemDeviceId s.sys.clockSpeed⟩
  case stage =>
    obtain rfl : n = 1 := BitVec.eq_of_toNat_eq h
    exact ⟨rfl, rfl⟩
  case restart =>
    obtain rfl : n = 2 := BitVec.eq_of_toNat_eq h
    exact ⟨rfl, rfl⟩
  case shutdown =>
    obtain rfl : n = 3 := BitVec.eq_of_toNat_eq h
    exact ⟨rfl, rfl⟩
  case other =>
    rw [systemCommand_of_four_le h]
    exact ⟨rfl, rfl⟩

/-- Settles O32: legal ids of the keyboard and the mouse are not the system device's. -/
theorem sotToKeyboardOrMouseDoesNothing : Obligations.SotToKeyboardOrMouseDoesNothing := by
  intro n s hcfg hdev
  simp only [Config.wf, Bool.and_eq_true, bne_iff_ne] at hcfg
  obtain ⟨⟨hkeyboard, hmouse⟩, _⟩ := hcfg
  have ha : s.a ≠ 1 := hdev.elim (fun h => h ▸ hkeyboard) (fun h => h ▸ hmouse)
  exact sotToOtherDevicesDoesNothing n s ha

/-- Settles O52: a pop right after the query's push returns the answer and, as a stack, undoes the push. -/
theorem queryThenGinDeliversTheClockSpeed : Obligations.QueryThenGinDeliversTheClockSpeed := by
  intro n s ha hp
  refine ⟨_, _, exec_sot_idle ha hp 0, exec_gin n _, ?_, rfl, InputQueue.pop_push_cursor s.inq _ _, fun i hi => ?_,
    fun stack hroom h => ?_⟩
  · exact (Memory.read_write_same _ n _).trans (InputQueue.popValue_push s.inq _ _)
  · exact (InputQueue.slotAt_push s.inq systemDeviceId s.sys.clockSpeed i).trans (if_neg hi)
  · exact (represents_pop (represents_push systemDeviceId s.sys.clockSpeed h hroom)).2

end Sys2Proof

/-! Reset and the host (spec/70_reset_and_hazards.md section 1, spec/47_host_entry_points.md): the reset state, loads and pushes,
and executions under a schedule with their end. -/

namespace Sys2Proof.Machine

/-- The state after one operation of an execution. -/
def afterOp : HostOp → State → State
  | .step, s               => afterStep s
  | .pushInput dev data, s => s.pushInput dev data

theorem hostOp_eq_afterOp (op : HostOp) (s : State) : hostOp op s = .next (afterOp op s) := by
  cases op with
  | step => exact step_eq_afterStep s
  | pushInput dev data => rfl

theorem runSchedule_cons (op : HostOp) (ops : List HostOp) (s : State) :
    runSchedule (op :: ops) s = runSchedule ops (afterOp op s) := by
  simp only [runSchedule, hostOp_eq_afterOp]

theorem runSchedule_total (ops : List HostOp) (s : State) : ∃ t, runSchedule ops s = .next t := by
  induction ops generalizing s with
  | nil => exact ⟨s, rfl⟩
  | cons op ops ih =>
    rw [runSchedule_cons]
    exact ih _

/-- A schedule of steps alone is as many steps. -/
theorem runSchedule_replicate_step (k : Nat) (s : State) : runSchedule (List.replicate k .step) s = runSteps k s := by
  induction k generalizing s with
  | zero => rfl
  | succ k ih =>
    rw [List.replicate_succ, runSchedule_cons, ih, runSteps_succ_eq]
    rfl

theorem runFirst_succ {schedule : Nat → HostOp} {n : Nat} {s t : State} (h : runFirst schedule n s = .next t) :
    runFirst schedule (n + 1) s = hostOp (schedule n) t := by
  rw [runFirst, firstOps_succ, runSchedule_append h, runSchedule_cons, hostOp_eq_afterOp]
  rfl

theorem runScheduleUntil_cons (runEnd : State → Bool) (op : HostOp) (ops : List HostOp) (s : State) :
    runScheduleUntil runEnd (op :: ops) s =
      if endsRun runEnd op (afterOp op s) then .next (afterOp op s) else runScheduleUntil runEnd ops (afterOp op s) := by
  simp only [runScheduleUntil, hostOp_eq_afterOp]

/-- Only a step that leaves `RUN_END` true ends a run (R301). -/
theorem endsRun_iff (runEnd : State → Bool) (op : HostOp) (t : State) :
    endsRun runEnd op t = true ↔ op = .step ∧ runEnd t = true := by
  cases op with
  | step => exact (and_iff_right rfl).symm
  | pushInput dev data => exact ⟨fun h => absurd h Bool.false_ne_true, fun h => nomatch h.1⟩

theorem Memory.wf_loadFrom (image : List Word) (k : Nat) {m : List Host.Cell} (h : Memory.wf m) :
    Memory.wf (Memory.loadFrom m k image) := by
  induction image generalizing k m with
  | nil => exact h
  | cons w image ih =>
    unfold Memory.loadFrom
    split
    · exact ih _ (Memory.wf_write h _ w)
    · exact h

end Sys2Proof.Machine

namespace Sys2Proof

open Machine

theorem inv_resetWith (cfg : Config) : Inv (State.resetWith cfg) where
  memory         := Memory.wf_nil
  queue          := ⟨List.Pairwise.nil, fun _ h => nomatch h⟩
  log            := ⟨List.Pairwise.nil, fun _ h => nomatch h⟩
  overflow       := rfl
  inputAvailable := rfl
  staged         := fun h => nomatch h

theorem Inv.pushInput {s : State} (h : Inv s) (dev data : Word) : Inv (s.pushInput dev data) where
  memory         := h.memory
  queue          := InputQueue.wf_push h.queue dev data
  log            := h.log
  overflow       := h.overflow
  inputAvailable := h.inputAvailable
  staged         := h.staged

theorem Inv.load {s : State} (h : Inv s) (image : List Word) : Inv (s.load image) where
  memory         := Memory.wf_loadFrom image 0 h.memory
  queue          := h.queue
  log            := h.log
  overflow       := h.overflow
  inputAvailable := h.inputAvailable
  staged         := h.staged

theorem Inv.hostOp {op : HostOp} {s t : State} (h : Inv s) (ht : hostOp op s = .next t) : Inv t := by
  cases op with
  | step => exact stepKeepsLegalStates s t h ht
  | pushInput dev data =>
    obtain rfl : s.pushInput dev data = t := Host.Outcome.next.inj ht
    exact h.pushInput dev data

/-- Settles O42: a call is an admitted load or one operation, and each keeps the invariant. -/
theorem hostOperationsKeepLegalStates : Obligations.HostOperationsKeepLegalStates := by
  refine ⟨fun s hs => ⟨hs.pushInput, hs.load⟩, fun call h h' hs hcall => ?_⟩
  rcases hostCall_cases hcall with ⟨cfg, image, rfl, rfl, rfl⟩ | ⟨op, t, rfl, ht, rfl⟩
  · exact hs.load image
  · exact hs.hostOp ht

/-- Settles O40: the empty memory and rings are canonical, and the free ids carry the proof that they are legal. -/
theorem resetIsLegal : Obligations.ResetIsLegal := by
  refine ⟨inv_resetWith _, inv_resetWith, ?_⟩
  obtain ⟨hkeyboard, hmouse, hdiffer⟩ := Config.freeDeviceIds.legal
  simp only [Config.wf, Config.default, Bool.and_eq_true, bne_iff_ne]
  exact ⟨⟨hkeyboard, hmouse⟩, hdiffer⟩

/-- Settles O39: the fields of `resetWith`, one by one. -/
theorem stateAfterReset : Obligations.StateAfterReset := by
  refine ⟨rfl, rfl, fun cfg s hs => ?_⟩
  subst hs
  exact ⟨rfl, rfl, rfl, rfl, rfl, rfl, rfl, rfl, represents_nil_iff.mpr rfl, rfl, fun _ => rfl, rfl, rfl, rfl, rfl,
    fun _ => rfl, rfl⟩

/-- Settles O53: each word of a load (`State.load_read`), and a load writes the field of memory alone. -/
theorem loadPlacesTheImageFromAddressZero : Obligations.LoadPlacesTheImageFromAddressZero := by
  refine fun s image => ⟨fun n h => ?_, fun n h => ?_, rfl⟩
  · rw [State.load_read, List.getD_eq_getElem _ _ h]
  · rw [State.load_read, List.getD_eq_default _ _ h]

/-- Settles O55: the push of the queue, in a state. -/
theorem pushInputPushesAndNothingElse : Obligations.PushInputPushesAndNothingElse := by
  intro s dev data
  obtain ⟨hcount, hcursor, hslot, hother⟩ := s.inq.push_spec dev data
  rw [hcursor] at hslot hother
  exact ⟨hcursor, hcount, hslot, hother, rfl⟩

/-- Settles O56: every answered call leaves a launched session. -/
theorem loadIsRefusedAfterAnyCall : Obligations.LoadIsRefusedAfterAnyCall := by
  refine ⟨fun _ _ => rfl, fun call h h' image hcall => ?_, fun op h => ?_⟩
  · rcases hostCall_cases hcall with ⟨_, _, _, _, rfl⟩ | ⟨_, _, _, _, rfl⟩ <;> rfl
  · exact ⟨_, hostOp_eq_afterOp op h.machine, hostCall_op (hostOp_eq_afterOp op h.machine)⟩

/-- Settles O58: the states are those the beginnings end in, each followed by its own operation. -/
theorem everyScheduleHasItsExecution : Obligations.EveryScheduleHasItsExecution := by
  intro schedule s
  choose states hstates using fun n => runSchedule_total (firstOps schedule n) s
  refine ⟨states, (Host.Outcome.next.inj (hstates 0)).symm, fun n => ⟨hstates n, ?_⟩⟩
  rw [← runFirst_succ (hstates n)]
  exact hstates (n + 1)

/-- Settles O59: by induction on the schedule; the first operation ends the run, or the rest of the schedule runs after it. -/
theorem scheduledRunEndsAfterTheFirstStepThatMeetsRunEnd : Obligations.ScheduledRunEndsAfterTheFirstStepThatMeetsRunEnd := by
  intro runEnd ops
  induction ops with
  | nil => exact fun s => ⟨0, s, Nat.le_refl 0, rfl, rfl, .inl rfl, fun j u hj => absurd hj (Nat.not_lt_zero _)⟩
  | cons op ops ih =>
    intro s
    rw [runScheduleUntil_cons]
    by_cases hend : endsRun runEnd op (afterOp op s) = true
    · obtain ⟨rfl, hrunEnd⟩ := (endsRun_iff runEnd op _).mp hend
      rw [if_pos hend]
      exact ⟨1, _, Nat.succ_le_succ (Nat.zero_le _), rfl, runSchedule_cons _ _ s, .inr ⟨0, rfl, rfl, hrunEnd⟩,
        fun j u hj => by omega⟩
    · obtain ⟨k, t, hk, huntil, hrun, hstop, hbefore⟩ := ih (afterOp op s)
      rw [if_neg hend]
      refine ⟨k + 1, t, Nat.succ_le_succ hk, huntil, (runSchedule_cons _ _ s).trans hrun, ?stop, fun j u hj hop hu => ?before⟩
      case stop =>
        rcases hstop with rfl | ⟨j, rfl, hop, hrunEnd⟩
        · exact .inl rfl
        · exact .inr ⟨j + 1, rfl, hop, hrunEnd⟩
      case before =>
        rw [List.take_succ_cons, runSchedule_cons] at hu
        cases j with
        | zero =>
          obtain rfl : op = .step := Option.some.inj hop
          obtain rfl : afterOp .step s = u := Host.Outcome.next.inj hu
          exact Bool.eq_false_iff.mpr fun hrunEnd => hend ((endsRun_iff runEnd _ _).mpr ⟨rfl, hrunEnd⟩)
        | succ j => exact hbefore j u (Nat.lt_of_succ_lt_succ hj) hop hu

/-- Settles O57: a run without pushes is one under a schedule of steps alone. -/
theorem runEndsAfterTheFirstStepThatMeetsRunEnd : Obligations.RunEndsAfterTheFirstStepThatMeetsRunEnd := by
  intro runEnd fuel s
  obtain ⟨k, t, hk, huntil, hrun, hstop, hbefore⟩ :=
    scheduledRunEndsAfterTheFirstStepThatMeetsRunEnd runEnd (List.replicate fuel .step) s
  rw [List.length_replicate] at hk hstop
  have htake {j : Nat} (hj : j ≤ fuel) : runSchedule ((List.replicate fuel .step).take j) s = runSteps j s := by
    rw [List.take_replicate, Nat.min_eq_left hj, runSchedule_replicate_step]
  refine ⟨k, t, hk, huntil, (htake hk).symm.trans hrun, ?_, fun j u hpos hj hu => ?_⟩
  · rcases hstop with rfl | ⟨j, rfl, _, hrunEnd⟩
    · exact .inl rfl
    · exact .inr ⟨Nat.succ_pos j, hrunEnd⟩
  · obtain ⟨j, rfl⟩ := Nat.exists_eq_succ_of_ne_zero (Nat.ne_of_gt hpos)
    have hstep : (List.replicate fuel HostOp.step)[j]? = some .step := by
      rw [List.getElem?_replicate, if_pos (by omega)]
    exact hbefore j u hj hstep ((htake (by omega)).trans hu)

end Sys2Proof
